-- ==== Sys2Proof/Word.lean ====
section
/-! DEFINITION. The words of CORE's interface: widths (00_scope.md R8, R9), the request and response formats
(30_encoding.md R60, R61) and the names of the error codes (60_exceptions.md R141). -/

namespace Sys2Proof

/-- A 64-bit data word, read as IEEE 754 binary64 where it is a sample, a weight or a history entry (R8). -/
abbrev Word := BitVec 64

/-- An 8-bit field: a weight count (R25) or an error code (R26). -/
abbrev Byte := BitVec 8

/-- A 12-bit byte address of the register space (R40). -/
abbrev Addr := BitVec 12

/-- The 13-bit header `H = {W, ADDR}` that alone selects the operation (R60). -/
abbrev Header := BitVec 13

/-- The 5-bit tap index `ADDR[7:3]`, legal for 0..19 (R65). -/
abbrev TapIndex := BitVec 5

/-- A register file or history buffer of MAX_TAPS = 20 words (R7, R22, R23, R30, R31). -/
abbrev TapFile := Vector Word 20

/-- +0.0, the binary64 word of all zero bits (R13). -/
abbrev posZero : Word := 0x0000000000000000#64

/-- A request, one transaction of 77 bits: W, ADDR and WDATA (R60). -/
structure Request where
  write : Bool
  addr : Addr
  wdata : Word
  deriving DecidableEq, Repr, Inhabited

/-- A response of 65 bits: ERR (`false` is OKAY) and RDATA (R61). -/
structure Response where
  err : Bool
  rdata : Word
  deriving DecidableEq, Repr, Inhabited

/-- The error codes CORE raises (R141); NONE (0x00) is the absence of an error and no constructor. -/
inductive ErrCode where
  | cfgNumInRange
  | cfgNumInZero
  | cfgNumOutRange
  | cfgA0Zero
  | notConfigured
  | locked
  | badAddress
  | badAccess
  deriving DecidableEq, Repr

end Sys2Proof
end

