-- ==== Sys2Proof/Syntax.lean ====
section
/-! DEFINITION. The 15 operations of the opcode table (30_encoding.md R68), one constructor per row in the table's
order. An operation that ignores WDATA ("Operands: none", R81 to R105) carries none. -/

namespace Sys2Proof

/-- A host transaction that the decoder accepts. `i` is the tap index of R65. -/
inductive Instr where
  | rdCaps
  | rdCfg
  | wrCfg (wdata : Word)
  | rdStatus
  | configure
  | release
  | clearErr
  | filter (x : Word)
  | rdYOut
  | rdB (i : TapIndex)
  | wrB (i : TapIndex) (w : Word)
  | rdA (i : TapIndex)
  | wrA (i : TapIndex) (w : Word)
  | rdXh (i : TapIndex)
  | rdYh (i : TapIndex)
  deriving DecidableEq, Repr

end Sys2Proof
end

