-- ==== Sys2Proof/WellFormed.lean ====
section
/-! DEFINITION. Well-formed instructions: the tap index is legal for 0..19 (30_encoding.md R65). -/

namespace Sys2Proof

/-- "legal for 0..19" (R65). -/
def legalIndex (i : TapIndex) : Bool := decide (i.toNat ≤ 19)

/-- The one condition the encodings put on operands: a legal tap index. -/
def Instr.wf : Instr → Bool
  | .rdCaps => true
  | .rdCfg => true
  | .wrCfg _ => true
  | .rdStatus => true
  | .configure => true
  | .release => true
  | .clearErr => true
  | .filter _ => true
  | .rdYOut => true
  | .rdB i => legalIndex i
  | .wrB i _ => legalIndex i
  | .rdA i => legalIndex i
  | .wrA i _ => legalIndex i
  | .rdXh i => legalIndex i
  | .rdYh i => legalIndex i

end Sys2Proof
end

