-- ==== Sys2Proof/Decode.lean ====
section
/-! DEFINITION. The transaction formats as bits (30_encoding.md R60, R61), the decoder (R64), the opcode table (R68) and
an encoder. The decoder is total: each of the 8192 headers gives an operation or the error code it is rejected with. -/

namespace Sys2Proof

/-- `H = {W, ADDR}` (R60). -/
def Request.header (r : Request) : Header := BitVec.ofBool r.write ++ r.addr

/-- The 77-bit request word `H × 2^64 + WDATA` (R60). -/
def Request.toBits (r : Request) : BitVec 77 := r.header ++ r.wdata

/-- The fields of a 77-bit request: W is bit 76, ADDR bits 75:64, WDATA bits 63:0 (R60). -/
def Request.ofBits (v : BitVec 77) : Request :=
  { write := v.getLsbD 76, addr := v.extractLsb' 64 12, wdata := v.extractLsb' 0 64 }

/-- The 65-bit response: ERR is bit 64, RDATA bits 63:0 (R61). -/
def Response.toBits (r : Response) : BitVec 65 := BitVec.ofBool r.err ++ r.rdata

/-- The fields of a 65-bit response (R61). -/
def Response.ofBits (v : BitVec 65) : Response :=
  { err := v.getLsbD 64, rdata := v.extractLsb' 0 64 }

/-- A mapped register of the register map (R63). -/
inductive Reg where
  | caps
  | cfg
  | status
  | cmdConfigure
  | cmdRelease
  | cmdClearErr
  | xIn
  | yOut
  | b (i : TapIndex)
  | a (i : TapIndex)
  | xh (i : TapIndex)
  | yh (i : TapIndex)
  deriving DecidableEq, Repr

/-- The single registers of slot row ADDR[11:8] = 0, selected by ADDR[7:0] (R64). -/
def singleReg (low : Byte) : Except ErrCode Reg :=
  if low = 0x00#8 then .ok .caps
  else if low = 0x08#8 then .ok .cfg
  else if low = 0x10#8 then .ok .status
  else if low = 0x18#8 then .ok .cmdConfigure
  else if low = 0x20#8 then .ok .cmdRelease
  else if low = 0x28#8 then .ok .cmdClearErr
  else if low = 0x30#8 then .ok .xIn
  else if low = 0x38#8 then .ok .yOut
  else .error .badAddress

/-- The indexed registers, the file selected by ADDR[11:8] and the entry by ADDR[7:3] (R64, R65). -/
def indexedReg (file : BitVec 4) (i : TapIndex) : Except ErrCode Reg :=
  if i.toNat > 19 then .error .badAddress
  else if file = 1#4 then .ok (.b i)
  else if file = 2#4 then .ok (.a i)
  else if file = 3#4 then .ok (.xh i)
  else if file = 4#4 then .ok (.yh i)
  else .error .badAddress

/-- The register an address selects, or BAD_ADDRESS: misalignment first, then an unmapped address or index (R64). -/
def decodeReg (addr : Addr) : Except ErrCode Reg :=
  if addr.extractLsb' 0 3 ≠ 0#3 then .error .badAddress
  else if addr.extractLsb' 8 4 = 0#4 then singleReg (addr.extractLsb' 0 8)
  else indexedReg (addr.extractLsb' 8 4) (addr.extractLsb' 3 5)

/-- The read column of the register map (R63). -/
def Reg.readOp : Reg → Except ErrCode Instr
  | .caps => .ok .rdCaps
  | .cfg => .ok .rdCfg
  | .status => .ok .rdStatus
  | .cmdConfigure => .error .badAccess
  | .cmdRelease => .error .badAccess
  | .cmdClearErr => .error .badAccess
  | .xIn => .error .badAccess
  | .yOut => .ok .rdYOut
  | .b i => .ok (.rdB i)
  | .a i => .ok (.rdA i)
  | .xh i => .ok (.rdXh i)
  | .yh i => .ok (.rdYh i)

/-- The write column of the register map (R63), with the use of WDATA (R66). -/
def Reg.writeOp (wdata : Word) : Reg → Except ErrCode Instr
  | .caps => .error .badAccess
  | .cfg => .ok (.wrCfg wdata)
  | .status => .error .badAccess
  | .cmdConfigure => .ok .configure
  | .cmdRelease => .ok .release
  | .cmdClearErr => .ok .clearErr
  | .xIn => .ok (.filter wdata)
  | .yOut => .error .badAccess
  | .b i => .ok (.wrB i wdata)
  | .a i => .ok (.wrA i wdata)
  | .xh _ => .error .badAccess
  | .yh _ => .error .badAccess

/-- The decoder (R64): an operation, or the code the transaction is rejected with. It reads no state. -/
def decodeRequest (r : Request) : Except ErrCode Instr :=
  match decodeReg r.addr with
  | .error e => .error e
  | .ok reg => if r.write then reg.writeOp r.wdata else reg.readOp

/-- The decoder on the bits of a request: "Every 77-bit value is a request" (R60). -/
def decode (v : BitVec 77) : Except ErrCode Instr := decodeRequest (Request.ofBits v)

/-- The address of entry `i` of a file: `{file, i, 000}` (R63, R65). -/
def fileAddr (file : BitVec 4) (i : TapIndex) : Addr := file ++ i ++ 0#3

/-- The request of an operation, written from the headers of R68; a transaction without data is sent with WDATA = 0
(R69). -/
def encodeRequest : Instr → Request
  | .rdCaps => { write := false, addr := 0x000#12, wdata := 0#64 }
  | .rdCfg => { write := false, addr := 0x008#12, wdata := 0#64 }
  | .wrCfg wdata => { write := true, addr := 0x008#12, wdata := wdata }
  | .rdStatus => { write := false, addr := 0x010#12, wdata := 0#64 }
  | .configure => { write := true, addr := 0x018#12, wdata := 0#64 }
  | .release => { write := true, addr := 0x020#12, wdata := 0#64 }
  | .clearErr => { write := true, addr := 0x028#12, wdata := 0#64 }
  | .filter x => { write := true, addr := 0x030#12, wdata := x }
  | .rdYOut => { write := false, addr := 0x038#12, wdata := 0#64 }
  | .rdB i => { write := false, addr := fileAddr 1#4 i, wdata := 0#64 }
  | .wrB i w => { write := true, addr := fileAddr 1#4 i, wdata := w }
  | .rdA i => { write := false, addr := fileAddr 2#4 i, wdata := 0#64 }
  | .wrA i w => { write := true, addr := fileAddr 2#4 i, wdata := w }
  | .rdXh i => { write := false, addr := fileAddr 3#4 i, wdata := 0#64 }
  | .rdYh i => { write := false, addr := fileAddr 4#4 i, wdata := 0#64 }

/-- The 77-bit word of an operation. -/
def encode (i : Instr) : BitVec 77 := (encodeRequest i).toBits

/-- The mnemonic of an operation, as the opcode table spells it (R68). -/
def Instr.mnemonic : Instr → String
  | .rdCaps => "RD_CAPS"
  | .rdCfg => "RD_CFG"
  | .wrCfg _ => "WR_CFG"
  | .rdStatus => "RD_STATUS"
  | .configure => "CONFIGURE"
  | .release => "RELEASE"
  | .clearErr => "CLEAR_ERR"
  | .filter _ => "FILTER"
  | .rdYOut => "RD_Y_OUT"
  | .rdB _ => "RD_B"
  | .wrB _ _ => "WR_B"
  | .rdA _ => "RD_A"
  | .wrA _ _ => "WR_A"
  | .rdXh _ => "RD_XH"
  | .rdYh _ => "RD_YH"

/-- A row of the opcode table: match and mask over the header (R68). -/
structure OpcodeRow where
  mnemonic : String
  pattern : Header
  mask : Header
  deriving DecidableEq, Repr

/-- The opcode table (R68), row for row. -/
def opcodeTable : List OpcodeRow :=
  [ ⟨"RD_CAPS", 0x0000#13, 0x1FFF#13⟩,
    ⟨"RD_CFG", 0x0008#13, 0x1FFF#13⟩,
    ⟨"WR_CFG", 0x1008#13, 0x1FFF#13⟩,
    ⟨"RD_STATUS", 0x0010#13, 0x1FFF#13⟩,
    ⟨"CONFIGURE", 0x1018#13, 0x1FFF#13⟩,
    ⟨"RELEASE", 0x1020#13, 0x1FFF#13⟩,
    ⟨"CLEAR_ERR", 0x1028#13, 0x1FFF#13⟩,
    ⟨"FILTER", 0x1030#13, 0x1FFF#13⟩,
    ⟨"RD_Y_OUT", 0x0038#13, 0x1FFF#13⟩,
    ⟨"RD_B", 0x0100#13, 0x1F07#13⟩,
    ⟨"WR_B", 0x1100#13, 0x1F07#13⟩,
    ⟨"RD_A", 0x0200#13, 0x1F07#13⟩,
    ⟨"WR_A", 0x1200#13, 0x1F07#13⟩,
    ⟨"RD_XH", 0x0300#13, 0x1F07#13⟩,
    ⟨"RD_YH", 0x0400#13, 0x1F07#13⟩ ]

/-- A header is matched by a row: its masked bits are the row's, "(with i ≤ 19 for indexed rows)" (R68). An indexed row
is one whose mask leaves out H[7:3]; the other rows fix those bits at values below 20. -/
def OpcodeRow.accepts (row : OpcodeRow) (h : Header) : Bool :=
  decide (h &&& row.mask = row.pattern) &&
    (decide (row.mask = 0x1FFF#13) || decide ((h.extractLsb' 3 5).toNat ≤ 19))

/-- The request of a word numbered as the opcode table numbers it: the header in bits 12:0 and, counting on from it,
WDATA in bits 76:13; only the low `nbits` bits of `w` are taken (notes/assumptions/3.md). -/
def tableRequest (nbits w : Nat) : Request :=
  let v := w % 2 ^ nbits
  { write := v.testBit 12, addr := BitVec.ofNat 12 v, wdata := BitVec.ofNat 64 (v / 2 ^ 13) }

/-- What the decoder reads from a table word; none where it rejects the header. -/
def decodeTableWord (nbits w : Nat) : Option Instr :=
  match decode (tableRequest nbits w).toBits with
  | .ok i => some i
  | .error _ => none

end Sys2Proof
end

