-- ==== Sys2Proof/Config.lean ====
section
/-! DEFINITION. The implementation parameters (00_scope.md R7, R9): the fixed ones with their values, the OPEN ones as
constants without a body, so that no proof can see a value of theirs. -/

namespace Sys2Proof

/-- The four rounded operations of the filter step (R14): the first argument of NAN_RESULT. -/
inductive FpOp where
  | mul
  | add
  | sub
  | div
  deriving DecidableEq, Repr, Inhabited

/-- A NaN word, apart from its encoding: a sign and a nonzero 52-bit fraction, held as the fraction less one, so that
the type has exactly the NaN words of R13 as its values. -/
structure NanWord where
  negative : Bool
  fractionLessOne : Fin 4503599627370495
  deriving DecidableEq, Repr, Inhabited

/-- RESET_STYLE's two values (R9, R160). -/
inductive ResetStyle where
  | synchronous
  | asynchronous
  deriving DecidableEq, Repr, Inhabited

/-- MAX_TAPS = 20 (R7). -/
abbrev Config.maxTaps : Nat := 20

/-- IF_VERSION = 1 (R3, R9). -/
abbrev Config.ifVersion : Nat := 1

/-- NAN_RESULT(op, p, q) (R9, R14, R132): OPEN; a NaN that is a function of the operation and its two operand words.
Free value (notes/assumptions/1.md). -/
opaque Config.nanResult : FpOp → Word → Word → NanWord

/-- FILTER_LATENCY (R9, R171): OPEN; clock cycles from a FILTER's acceptance to its response. Read by the port of
Machine/Port.lean only (notes/assumptions/5.md). -/
opaque Config.filterLatency : Nat

/-- "the latencies of every other transaction" (R171): OPEN; a function of the header, so bounded by a constant. Read by
the port of Machine/Port.lean only (notes/assumptions/5.md). -/
opaque Config.otherLatency : Header → Nat

/-- RESET_STYLE (R9, R160): OPEN; "no transaction-level rule depends on it", so nothing reads it
(notes/assumptions/6.md). -/
opaque Config.resetStyle : ResetStyle

/-- CORE_BASE (R48): OPEN; "which no rule of this spec reads", so nothing reads it (notes/assumptions/6.md). -/
opaque Config.coreBase : Nat

end Sys2Proof
end

