-- ==== Sys2Proof/Machine/Float.lean ====
section
/-! DEFINITION. IEEE 754 binary64 as 00_scope.md R13, R14 and R16 use it. Magnitudes are held exactly, as natural numbers
of quanta of 2^-1074 (the least subnormal): every finite word is a whole number of them, so a sum is exact, and a
product or quotient is an exact fraction of them, rounded once by `roundMag`. What the spec marks as general knowledge of
IEEE 754 is PRESUMED (notes/assumptions/8.md). -/

namespace Sys2Proof.Machine

/-- The sign, bit 63 (R13). -/
def signBit (w : Word) : Bool := w.getLsbD 63

/-- The biased exponent, bits 62:52 (R13). -/
def expField (w : Word) : Nat := (w.extractLsb' 52 11).toNat

/-- The fraction, bits 51:0 (R13). -/
def fracField (w : Word) : Nat := (w.extractLsb' 0 52).toNat

/-- Exponent 0x7FF with a nonzero fraction (R13). -/
def isNan (w : Word) : Bool := decide (expField w = 0x7FF) && decide (fracField w ≠ 0)

/-- Exponent 0x7FF with fraction 0 (R13). -/
def isInf (w : Word) : Bool := decide (expField w = 0x7FF) && decide (fracField w = 0)

/-- Neither an infinity nor a NaN (R13). -/
def isFinite (w : Word) : Bool := decide (expField w ≠ 0x7FF)

/-- Equality with zero: true for +0.0 and -0.0 only (R16). -/
def feq0 (w : Word) : Bool := decide (w.extractLsb' 0 63 = 0#63)

/-- The magnitude of a finite word in quanta of 2^-1074: a subnormal or zero is its fraction; a normal word is
(2^52 + fraction) · 2^(exponent - 1) (R13). -/
def magQuanta (w : Word) : Nat :=
  if expField w = 0 then fracField w else (2 ^ 52 + fracField w) * 2 ^ (expField w - 1)

/-- The value of a finite word in quanta, with its sign. -/
def quanta (w : Word) : Int := if signBit w then -(magQuanta w : Int) else (magQuanta w : Int)

/-- The low 63 bits of an infinity (R13). -/
abbrev infMag : Nat := 0x7FF0000000000000

/-- The word with sign `neg` and low 63 bits `m`. -/
def packWord (neg : Bool) (m : Nat) : Word := BitVec.ofBool neg ++ BitVec.ofNat 63 m

/-- The spacing exponent of the binade of `n / d` quanta: words of that binade are multiples of 2^k quanta, and k is 0
for the subnormals and the first normal binade. -/
def spacing (n d : Nat) : Nat := Nat.log2 (n / d) - 52

/-- The low 63 bits of the binary64 magnitude nearest to n/d quanta, ties to even, overflow to infinity (R14, R131).
The multiple q of 2^k quanta is encoded as k·2^52 + q: the carry of a rounded-up q = 2^53 moves into the exponent. -/
@[irreducible] def roundMag (n d : Nat) : Nat :=
  let k := spacing n d
  let q := n / (d * 2 ^ k)
  let r := n % (d * 2 ^ k)
  let roundUp := decide (2 * r > d * 2 ^ k) || (decide (2 * r = d * 2 ^ k) && decide (q % 2 = 1))
  min (k * 2 ^ 52 + (if roundUp then q + 1 else q)) infMag

/-- The bits of a NaN: exponent 0x7FF and a nonzero fraction, so an infinity's low bits and 1 to 2^52 - 1 more (R13). -/
def nanBits (v : NanWord) : Word := packWord v.negative (infMag + 1 + v.fractionLessOne.val)

/-- `NAN_RESULT(op, p, q)` (R14): some NaN, a function of the operation and the operand words (notes/assumptions/1.md). -/
def nanResult (op : FpOp) (p q : Word) : Word := nanBits (Config.nanResult op p q)

/-- The sum of `p` and `q'` in IEEE 754, where a NaN result is that of `op` on the operands `p` and `q`. An exact zero
sum is +0.0 unless both terms are negative (zeros); every other sum has the sign of the exact sum. -/
@[irreducible] def addAs (op : FpOp) (p q q' : Word) : Word :=
  if isNan p || isNan q' || (isInf p && isInf q' && (signBit p != signBit q')) then nanResult op p q
  else if isInf p then p
  else if isInf q' then q'
  else
    let t := quanta p + quanta q'
    if t = 0 then packWord (signBit p && signBit q') 0
    else packWord (decide (t < 0)) (roundMag t.natAbs 1)

/-- `fadd(p, q)` (R14). -/
def fadd (p q : Word) : Word := addAs .add p q q

/-- `q` with its sign bit inverted. -/
def negate (q : Word) : Word := packWord (!signBit q) (q.toNat % 2 ^ 63)

/-- `fsub(p, q)` (R14). -/
def fsub (p q : Word) : Word := addAs .sub p q (negate q)

/-- `fmul(p, q)` (R14): the product of the magnitudes is in units of 2^-2148, hence the divisor 2^1074. -/
@[irreducible] def fmul (p q : Word) : Word :=
  let s := signBit p != signBit q
  if isNan p || isNan q || (isInf p && feq0 q) || (feq0 p && isInf q) then nanResult .mul p q
  else if isInf p || isInf q then packWord s infMag
  else packWord s (roundMag (magQuanta p * magQuanta q) (2 ^ 1074))

/-- `fdiv(p, q)` (R14): a finite nonzero number over a zero is an infinity, a finite number over an infinity a zero. -/
@[irreducible] def fdiv (p q : Word) : Word :=
  let s := signBit p != signBit q
  if isNan p || isNan q || (isInf p && isInf q) || (feq0 p && feq0 q) then nanResult .div p q
  else if isInf p || feq0 q then packWord s infMag
  else if isInf q then packWord s 0
  else packWord s (roundMag (magQuanta p * 2 ^ 1074) (magQuanta q))

/-- `f64(<decimal>)` (30_encoding.md R69): the binary64 word nearest the decimal num/den, with its sign, ties to even. -/
def f64OfDecimal (neg : Bool) (num den : Nat) : Word := packWord neg (roundMag (num * 2 ^ 1074) den)

end Sys2Proof.Machine
end

