-- ==== Sys2Proof/Machine/State.lean ====
section
/-! DEFINITION. The state: CORE's architectural state, which is exactly the tuple of 10_state.md R20, and beside it the
host port of 20_memory.md R55 at transaction level (requests and resets offered, the response given). -/

namespace Sys2Proof.Machine

/-- CORE's architectural state, "exactly this tuple, and nothing else" (R20). CAPS, the command registers, X_IN and Y_OUT
have no storage (R24, R27, R28, R29). -/
structure Arch where
  /-- B[0..19], the input weights (R22). -/
  b : TapFile
  /-- A[0..19], the output weights (R23). -/
  a : TapFile
  /-- CFG.NUM_IN (R25). -/
  numIn : Byte
  /-- CFG.NUM_OUT (R25). -/
  numOut : Byte
  /-- STATUS.CONFIGURED (R26). -/
  configured : Bool
  /-- STATUS.LAST_ERR (R26). -/
  lastErr : Byte
  /-- XH[0..19], the input history, newest first (R30). -/
  xh : TapFile
  /-- YH[0..19], the output history, newest first (R31). -/
  yh : TapFile
  deriving DecidableEq, Repr

/-- What the outside does to the port, one entry an event (R55, R56, R160, R162). -/
inductive HostInput where
  /-- A request is offered and accepted, and its response is taken. -/
  | request (r : Request)
  /-- rst is asserted and released with no transaction in flight. -/
  | reset
  /-- The request is accepted and rst is asserted before its response (R162). -/
  | resetDuring (r : Request)
  deriving DecidableEq, Repr

/-- The machine: CORE and its host port. `pending` and `rsp` are the port's, not CORE's (R35; notes/assumptions/2.md). -/
structure State where
  /-- CORE's architectural state. -/
  arch : Arch
  /-- The events the hosts have still to be served with, in the order CORE accepts them (R49, R51). -/
  pending : List HostInput
  /-- The response channel: the response of the latest transaction; none after a reset (R55, R61, R160). -/
  rsp : Option Response
  deriving DecidableEq, Repr

/-- CORE never stops with a fault: "A transaction is either performed (response OKAY) or rejected (response ERR)" (R140),
and both are next states. No constructor, raised by nobody: safe (notes/assumptions/4.md). -/
inductive Fault where
  deriving DecidableEq, Repr

/-- The reasons for which the model would give no meaning. -/
inductive Refusal where
  /-- An operation without a meaning, by its mnemonic. Raised by no arm of exec, since every operation has its meaning;
  it would be safe. -/
  | notModelled (mnemonic : String)
  deriving DecidableEq, Repr

/-- A file of twenty +0.0 words. -/
abbrev zeroFile : TapFile := Vector.replicate 20 posZero

/-- The reset value of every element of CORE's state (R36). -/
def Arch.reset : Arch where
  b := zeroFile
  a := zeroFile
  numIn := 0x00#8
  numOut := 0x00#8
  configured := false
  lastErr := 0x00#8
  xh := zeroFile
  yh := zeroFile

/-- The machine right after reset (R36, R160): nothing offered yet, no response given. -/
def State.reset : State where
  arch := Arch.reset
  pending := []
  rsp := none

/-! Updates, one per group of fields that an operation writes. -/

/-- B takes `f`. -/
def Arch.withB (s : Arch) (f : TapFile) : Arch := { s with b := f }

/-- A takes `f`. -/
def Arch.withA (s : Arch) (f : TapFile) : Arch := { s with a := f }

/-- CFG.NUM_IN and CFG.NUM_OUT take `m` and `k`. -/
def Arch.withCfg (s : Arch) (m k : Byte) : Arch := { s with numIn := m, numOut := k }

/-- STATUS.CONFIGURED takes `c`. -/
def Arch.withConfigured (s : Arch) (c : Bool) : Arch := { s with configured := c }

/-- STATUS.LAST_ERR takes `e`. -/
def Arch.withLastErr (s : Arch) (e : Byte) : Arch := { s with lastErr := e }

/-- XH and YH take `x` and `y`, as one update (R46). -/
def Arch.withHistories (s : Arch) (x y : TapFile) : Arch := { s with xh := x, yh := y }

/-- The transaction ends with CORE in state `c` and the response `r`. -/
def State.complete (s : State) (c : Arch) (r : Response) : State := { s with arch := c, rsp := some r }

/-- The events still to come are `p`. -/
def State.withPending (s : State) (p : List HostInput) : State := { s with pending := p }

/-- CORE is reset and gives no response; what the hosts still offer stays offered (R160, R162). -/
def State.reinit (s : State) : State := { s with arch := Arch.reset, rsp := none }

end Sys2Proof.Machine
end

