-- ==== Sys2Proof/Machine/Flags.lean ====
section
/-! DEFINITION. The control and status words: the error codes as LAST_ERR holds them (60_exceptions.md R141), the words of
CAPS, CFG and STATUS (10_state.md R24 to R26) and the checks of CONFIGURE (41_commands.md R102). CORE has no arithmetic
condition codes (R37). -/

namespace Sys2Proof.Machine

/-- The code of each error (R141). -/
def errByte : ErrCode → Byte
  | .cfgNumInRange => 0x01#8
  | .cfgNumInZero => 0x02#8
  | .cfgNumOutRange => 0x03#8
  | .cfgA0Zero => 0x04#8
  | .notConfigured => 0x10#8
  | .locked => 0x11#8
  | .badAddress => 0x20#8
  | .badAccess => 0x21#8

/-- NONE, the value of LAST_ERR when no error is recorded (R141). -/
abbrev errNone : Byte := 0x00#8

/-- CAPS: MAX_TAPS in [7:0], IF_VERSION in [15:8], the rest 0 (R24). -/
def capsWord : Word := 0#48 ++ BitVec.ofNat 8 Config.ifVersion ++ BitVec.ofNat 8 Config.maxTaps

/-- `zext_64({CFG.NUM_OUT, CFG.NUM_IN})` (R25, R82). -/
def cfgWord (c : Arch) : Word := 0#48 ++ c.numOut ++ c.numIn

/-- `zext_64({STATUS.LAST_ERR, 0b0000000, STATUS.CONFIGURED})` (R26, R84). -/
def statusWord (c : Arch) : Word := 0#48 ++ c.lastErr ++ 0#7 ++ BitVec.ofBool c.configured

/-- `cfg_check(M, K, a0)`: the first failing check in this order; none is NONE (R102). -/
def cfgCheck (m k : Byte) (a0 : Word) : Option ErrCode :=
  if m.toNat > Config.maxTaps then some .cfgNumInRange
  else if m.toNat = 0 then some .cfgNumInZero
  else if k.toNat > Config.maxTaps then some .cfgNumOutRange
  else if feq0 a0 then some .cfgA0Zero
  else none

end Sys2Proof.Machine
end

