-- ==== Sys2Proof/Machine/Operands.lean ====
section
/-! DEFINITION. The operand forms: the tap index (30_encoding.md R65), the fields of WDATA that WR_CFG takes (R66), and
the byte lanes of a data word (20_memory.md R43). -/

namespace Sys2Proof.Machine

/-- The entry a tap index selects, "not scaled or offset further"; none for the reserved indices 20..31 (R65). -/
def tapEntry (i : TapIndex) : Option (Fin 20) :=
  if h : i.toNat < 20 then some ⟨i.toNat, h⟩ else none

/-- `WDATA[7:0] -> NUM_IN` (R66). -/
def wdataNumIn (wdata : Word) : Byte := wdata.extractLsb' 0 8

/-- `WDATA[15:8] -> NUM_OUT`; WDATA[63:16] is ignored (R66). -/
def wdataNumOut (wdata : Word) : Byte := wdata.extractLsb' 8 8

/-- Byte lane `k` carries bits [8k+7:8k] of the data word (R43). -/
def byteLane (w : Word) (k : Fin 8) : Byte := w.extractLsb' (8 * k.val) 8

/-- The byte address of lane `k` of a slot: slot + k (R43). -/
def laneAddr (slot : Addr) (k : Fin 8) : Addr := slot + BitVec.ofNat 12 k.val

end Sys2Proof.Machine
end

