-- ==== Sys2Proof/Machine/Ops.lean ====
section
/-! DEFINITION. The operations the meanings share: ending a transaction (00_scope.md R12), error entry (60_exceptions.md
R142), access to a file by tap index, the lock (41_commands.md R106) and the shift of a history (42_filter_step.md
R122). There is no return from an error: "There is no trap return" (R145). -/

namespace Sys2Proof.Machine

/-- What a meaning answers. -/
abbrev Result := Host.Outcome State Fault Refusal

/-- Error entry, CORE's one exception mechanism: `STATUS.LAST_ERR <- e`, ERR with RDATA = 0, and nothing else (R142). -/
def raiseErr (e : ErrCode) (s : State) : Result :=
  .next (s.complete (s.arch.withLastErr (errByte e)) { err := true, rdata := 0#64 })

/-- `respond(v)`: a read that succeeds changes no state and returns OKAY with the register's word (R12, R80). -/
def respondData (v : Word) (s : State) : Result :=
  .next (s.complete s.arch { err := false, rdata := v })

/-- `respond()`: a write that succeeds leaves CORE in state `c` and returns OKAY with RDATA = 0 (R12, R61, R80). -/
def respondDone (c : Arch) (s : State) : Result :=
  .next (s.complete c { err := false, rdata := 0#64 })

/-- A write that the lock guards: LOCKED while configured (R106). -/
def respondUnlocked (c : Arch) (s : State) : Result :=
  if s.arch.configured then raiseErr .locked s else respondDone c s

/-- The read of entry `i` of a file; a reserved index is rejected with BAD_ADDRESS (R65). -/
def readEntry (f : TapFile) (i : TapIndex) (s : State) : Result :=
  match tapEntry i with
  | some n => respondData f[n] s
  | none => raiseErr .badAddress s

/-- Entry `t` of a file, for the sums of the filter step. Every entry they read has t < 20 while the invariant of R32
holds; past the file there is nothing, and +0.0 stands there (notes/assumptions/7.md). -/
def tap (f : TapFile) (t : Nat) : Word := f[t]?.getD posZero

/-- "the old [19] is discarded, [i] takes the old [i-1] for i = 19..1, and [0] takes" the new word unchanged (R122). -/
@[irreducible] def shiftIn (x : Word) (f : TapFile) : TapFile :=
  Vector.ofFn fun i => if i.val = 0 then x else f[i.val - 1]

end Sys2Proof.Machine
end

