-- ==== Sys2Proof/Machine/Commands.lean ====
section
/-! DEFINITION. The commands CONFIGURE, RELEASE and CLEAR_ERR (41_commands.md R101, R104, R105). -/

namespace Sys2Proof.Machine

/-- CONFIGURE (R101): LOCKED first, then the checks of R102, then both histories are zeroed and CONFIGURED is set. -/
def execConfigure (s : State) : Result :=
  if s.arch.configured then raiseErr .locked s
  else
    match cfgCheck s.arch.numIn s.arch.numOut s.arch.a[0] with
    | some e => raiseErr e s
    | none => respondDone ((s.arch.withHistories zeroFile zeroFile).withConfigured true) s

/-- CORE's state after RELEASE, written from R104's own assignments. -/
def released (c : Arch) : Arch :=
  ((((c.withB zeroFile).withA zeroFile).withHistories zeroFile zeroFile).withCfg 0x00#8 0x00#8).withConfigured false
    |>.withLastErr errNone

/-- RELEASE (R104): accepted in both states. -/
def execRelease (s : State) : Result := respondDone (released s.arch) s

/-- CLEAR_ERR (R105): accepted in both states. -/
def execClearErr (s : State) : Result := respondDone (s.arch.withLastErr errNone) s

end Sys2Proof.Machine
end

