-- ==== Sys2Proof/Machine/FilterStep.lean ====
section
/-! DEFINITION. FILTER, the recurrence engine (42_filter_step.md R120 to R125), with the lane datapath of R127. -/

namespace Sys2Proof.Machine

/-- `dot(W, H, lo, n)` (00_scope.md R15): the left fold over t = lo .. lo+n-1, ascending, from +0.0. -/
def dot (w h : TapFile) (lo n : Nat) : Word :=
  (List.range' lo n).foldl (fun acc t => fadd acc (fmul (tap w t) (tap h (t - lo)))) posZero

/-- Step 2: the feed-forward sum over the shifted input history (R123). -/
def feedForward (c : Arch) (xh : TapFile) : Word := dot c.b xh 0 c.numIn.toNat

/-- Step 3: the feedback sum over the output history not yet shifted (R124). On naturals K - 1 is max(K-1, 0). -/
def feedBack (c : Arch) : Word := dot c.a c.yh 1 (c.numOut.toNat - 1)

/-- Step 4: combine and normalise by A[0], whatever K is (R125). -/
def filterOutput (x : Word) (c : Arch) : Word :=
  fdiv (fsub (feedForward c (shiftIn x c.xh)) (feedBack c)) c.a[0]

/-- `filter_eval(x)` (R121): both histories shift; B, A, CFG and STATUS are unchanged (R125). -/
def filterEval (x : Word) (c : Arch) : Arch :=
  c.withHistories (shiftIn x c.xh) (shiftIn (filterOutput x c) c.yh)

/-- FILTER (R120). -/
def execFilter (x : Word) (s : State) : Result :=
  if s.arch.configured then respondDone (filterEval x s.arch) s else raiseErr .notConfigured s

/-! The parallel datapath that R127 allows; the filter step above does not use it. -/

/-- The products of the active lanes among the 20, in ascending order: "An inactive lane contributes nothing" (R127).
Lane t multiplies entry t of the weights by `h t`. -/
def laneProducts (w : TapFile) (h : Nat → Word) (active : Nat → Bool) : List Word :=
  ((List.range 20).filter active).map fun t => fmul (tap w t) (h t)

/-- The reduction of the active products, in ascending order from +0.0 (R127). -/
def reduceLanes (products : List Word) : Word := products.foldl fadd posZero

/-- The feed-forward sum by lanes: lane t is active iff t < M (R127). -/
def laneFeedForward (c : Arch) (xh : TapFile) : Word :=
  reduceLanes (laneProducts c.b (tap xh) fun t => decide (t < c.numIn.toNat))

/-- The feedback sum by lanes: lane t is active iff 1 ≤ t ≤ K-1, and takes YH[t-1] (R124, R127). -/
def laneFeedBack (c : Arch) : Word :=
  reduceLanes (laneProducts c.a (fun t => tap c.yh (t - 1)) fun t => decide (1 ≤ t ∧ t + 1 ≤ c.numOut.toNat))

end Sys2Proof.Machine
end

