-- ==== Sys2Proof/Machine/RegisterAccess.lean ====
section
/-! DEFINITION. The register reads and writes (40_register_access.md R81 to R91). -/

namespace Sys2Proof.Machine

/-- RD_CAPS (R81). -/
def execRdCaps (s : State) : Result := respondData capsWord s

/-- RD_CFG (R82). -/
def execRdCfg (s : State) : Result := respondData (cfgWord s.arch) s

/-- WR_CFG (R83): any counts are stored; CONFIGURE checks them. -/
def execWrCfg (wdata : Word) (s : State) : Result :=
  respondUnlocked (s.arch.withCfg (wdataNumIn wdata) (wdataNumOut wdata)) s

/-- RD_STATUS (R84). -/
def execRdStatus (s : State) : Result := respondData (statusWord s.arch) s

/-- RD_B (R85). -/
def execRdB (i : TapIndex) (s : State) : Result := readEntry s.arch.b i s

/-- WR_B (R86): the word is stored verbatim (R66). -/
def execWrB (i : TapIndex) (w : Word) (s : State) : Result :=
  match tapEntry i with
  | some n => respondUnlocked (s.arch.withB (s.arch.b.set n w)) s
  | none => raiseErr .badAddress s

/-- RD_A (R87). -/
def execRdA (i : TapIndex) (s : State) : Result := readEntry s.arch.a i s

/-- WR_A (R88): the word is stored verbatim (R66). -/
def execWrA (i : TapIndex) (w : Word) (s : State) : Result :=
  match tapEntry i with
  | some n => respondUnlocked (s.arch.withA (s.arch.a.set n w)) s
  | none => raiseErr .badAddress s

/-- RD_XH (R89). -/
def execRdXh (i : TapIndex) (s : State) : Result := readEntry s.arch.xh i s

/-- RD_YH (R90). -/
def execRdYh (i : TapIndex) (s : State) : Result := readEntry s.arch.yh i s

/-- RD_Y_OUT (R91): Y_OUT is an alias of YH[0] (R29). -/
def execRdYOut (s : State) : Result := respondData s.arch.yh[0] s

end Sys2Proof.Machine
end

