-- ==== Sys2Proof/Machine/Dispatch.lean ====
section
/-! DEFINITION. One arm per operation, each one call of its meaning. -/

namespace Sys2Proof.Machine

def exec (i : Instr) (s : State) : Host.Outcome State Fault Refusal :=
  match i with
  | .rdCaps => Sys2Proof.Machine.execRdCaps s
  | .rdCfg => Sys2Proof.Machine.execRdCfg s
  | .wrCfg wdata => Sys2Proof.Machine.execWrCfg wdata s
  | .rdStatus => Sys2Proof.Machine.execRdStatus s
  | .configure => Sys2Proof.Machine.execConfigure s
  | .release => Sys2Proof.Machine.execRelease s
  | .clearErr => Sys2Proof.Machine.execClearErr s
  | .filter x => Sys2Proof.Machine.execFilter x s
  | .rdYOut => Sys2Proof.Machine.execRdYOut s
  | .rdB n => Sys2Proof.Machine.execRdB n s
  | .wrB n w => Sys2Proof.Machine.execWrB n w s
  | .rdA n => Sys2Proof.Machine.execRdA n s
  | .wrA n w => Sys2Proof.Machine.execWrA n w s
  | .rdXh n => Sys2Proof.Machine.execRdXh n s
  | .rdYh n => Sys2Proof.Machine.execRdYh n s

end Sys2Proof.Machine
end

