-- ==== Sys2Proof/Machine/Transact.lean ====
section
/-! DEFINITION. One transaction from its request to its response (20_memory.md R49), and what the port does with each
event of the outside. -/

namespace Sys2Proof.Machine

/-- A transaction: the decoded operation is performed, or the transaction is rejected with the decoder's code (30_encoding.md
R64, 60_exceptions.md R140). -/
def transact (r : Request) (s : State) : Result :=
  match decodeRequest r with
  | .ok i => exec i s
  | .error e => raiseErr e s

/-- One event of the outside. A transaction cut by reset gives no response, and leaves the reset state "whatever part of
the transaction had been performed" (70_reset_and_hazards.md R160, R162). -/
def serve (ev : HostInput) (s : State) : Result :=
  match ev with
  | .request r => transact r s
  | .reset => .next s.reinit
  | .resetDuring _ => .next s.reinit

/-- The next event in acceptance order (R49), and the state with it taken. -/
def takeEvent (s : State) : Option (HostInput × State) :=
  match s.pending with
  | [] => none
  | ev :: rest => some (ev, s.withPending rest)

/-- One step: the next event is served; with none offered CORE "is idle" and "holds its state" (60_exceptions.md R153). -/
def serveNext (s : State) : Result :=
  match takeEvent s with
  | none => .next s
  | some (ev, s') => serve ev s'

/-- `s` with the request offered first. -/
def offerFirst (r : Request) (s : State) : State := s.withPending (.request r :: s.pending)

end Sys2Proof.Machine
end

