-- ==== Sys2Proof/Machine/Step.lean ====
section
/-! DEFINITION. The step: one event of the host port. CORE fetches no instructions (00_scope.md R3); its next instruction is
the next request the hosts offer (notes/assumptions/2.md). -/

namespace Sys2Proof.Machine

/-- One step of the machine. -/
def step (s : State) : Host.Outcome State Fault Refusal := serveNext s

/-- The state in which the request of a table word is the next event (notes/assumptions/2.md, 3.md). -/
def State.withFetchWord (s : State) (nbits w : Nat) : State := offerFirst (tableRequest nbits w) s

end Sys2Proof.Machine
end

