-- ==== Sys2Proof/Machine/Run.lean ====
section
/-! DEFINITION. CORE's architectural state under transactions, apart from the port: one transaction, a stream of them, the
read of one register, and the source's `filter(sample) -> sample`. -/

namespace Sys2Proof.Machine

/-- CORE in state `c` with nothing offered and no response given. -/
def idleAt (c : Arch) : State := { arch := c, pending := [], rsp := none }

/-- One transaction on CORE in state `c`: the state it leaves and the response it gives. Every transaction answers a next
state with a response (R140), so the last two arms are never taken. -/
def perform (r : Request) (c : Arch) : Arch × Response :=
  match transact r (idleAt c) with
  | .next t => (t.arch, t.rsp.getD { err := true, rdata := 0#64 })
  | .fault _ => (c, { err := true, rdata := 0#64 })
  | .refused _ => (c, { err := true, rdata := 0#64 })

/-- A stream of transactions, performed one at a time in order (R49): the state they leave and their responses in order.
A stream merged from several hosts is one such list (R51). -/
def performAll : List Request → Arch → Arch × List Response
  | [], c => (c, [])
  | r :: rs, c =>
    ((performAll rs (perform r c).1).1, (perform r c).2 :: (performAll rs (perform r c).1).2)

/-- `MemRead(addr, 8)`'s word (R12), none where the read is rejected. -/
def peek (c : Arch) (addr : Addr) : Option Word :=
  let answer := (perform { write := false, addr := addr, wdata := 0#64 } c).2
  if answer.err then none else some answer.rdata

/-- The byte that lane `k` carries when the register at `slot` is read (R43). -/
def peekByte (c : Arch) (slot : Addr) (k : Fin 8) : Option Byte := (peek c slot).map fun w => byteLane w k

/-- The source's `filter(sample) -> sample`, FILTER followed by RD_Y_OUT (R19), over a list of samples: the state left
and the outputs read, oldest first. -/
def feed : List Word → Arch → Arch × List Word
  | [], c => (c, [])
  | x :: xs, c =>
    let c' := (perform (encodeRequest (.filter x)) c).1
    ((feed xs c').1, (perform (encodeRequest .rdYOut) c').2.rdata :: (feed xs c').2)

end Sys2Proof.Machine
end

