-- ==== Sys2Proof/Machine/Assembler.lean ====
section
/-! DEFINITION. The assembler's data forms, lines and pseudo-instructions (30_encoding.md R69, R70), the general
construction sequence and the two presets (41_commands.md R110 to R113). Host-side notation: CORE sees the requests only
(notes/assumptions/10.md). -/

namespace Sys2Proof.Machine

/-- `<data>`: a hex word, `f64(<decimal>)` with the decimal as a signed fraction, or `cfg(<M>, <K>)` (R69). -/
inductive AsmData where
  | hex (w : Word)
  | f64 (neg : Bool) (num den : Nat)
  | cfg (m k : Byte)
  deriving DecidableEq, Repr

/-- The 64-bit word that `<data>` spells (R69). -/
def AsmData.word : AsmData → Word
  | .hex w => w
  | .f64 neg num den => f64OfDecimal neg num den
  | .cfg m k => 0#48 ++ k ++ m

/-- `WR_B i, w` for the words of a list, i counting from `start`; the loop does not run past entry 19 (R113). -/
def writesB : Nat → List Word → List Request
  | _, [] => []
  | start, w :: ws =>
    if start < 20 then encodeRequest (.wrB (BitVec.ofNat 5 start) w) :: writesB (start + 1) ws else []

/-- `WR_A j, w` for the words of a list, j counting from `start`; the loop does not run past entry 19 (R113). -/
def writesA : Nat → List Word → List Request
  | _, [] => []
  | start, w :: ws =>
    if start < 20 then encodeRequest (.wrA (BitVec.ofNat 5 start) w) :: writesA (start + 1) ws else []

/-- The general construction: the first `m` and `k` weights, "up to their counts", the counts, then CONFIGURE (R113;
`LOADCFG` of R70). A list shorter than its count writes the entries it has, as R112 leaves A[1] and A[2] unwritten
(notes/assumptions/10.md). -/
def construction (m k : Byte) (inWeights outWeights : List Word) : List Request :=
  writesB 0 (inWeights.take m.toNat) ++ writesA 0 (outWeights.take k.toNat) ++
    [encodeRequest (.wrCfg (AsmData.cfg m k).word), encodeRequest .configure]

/-- The twenty reads of a file, entry 0 first. -/
def dump (op : TapIndex → Instr) : List Request :=
  (List.range 20).map fun i => encodeRequest (op (BitVec.ofNat 5 i))

/-- A line of assembler text after its operands are read: an operation, a raw access or a pseudo-instruction (R69, R70). -/
inductive AsmLine where
  | op (i : Instr)
  | rawRead (addr : Addr)
  | rawWrite (addr : Addr) (data : AsmData)
  | nop
  | cfgSet (m k : Byte)
  | sample (data : AsmData)
  | loadCfg (m k : Byte) (inWeights outWeights : List Word)
  | dumpXh
  | dumpYh
  | dumpB
  | dumpA
  deriving DecidableEq, Repr

/-- The requests a line stands for (R69, R70). -/
def AsmLine.expand : AsmLine → List Request
  | .op i => [encodeRequest i]
  | .rawRead addr => [{ write := false, addr := addr, wdata := 0#64 }]
  | .rawWrite addr data => [{ write := true, addr := addr, wdata := data.word }]
  | .nop => [encodeRequest .rdCaps]
  | .cfgSet m k => [encodeRequest (.wrCfg (AsmData.cfg m k).word)]
  | .sample data => [encodeRequest (.filter data.word), encodeRequest .rdYOut]
  | .loadCfg m k bs as => construction m k bs as
  | .dumpXh => dump .rdXh
  | .dumpYh => dump .rdYh
  | .dumpB => dump .rdB
  | .dumpA => dump .rdA

/-- A word in hex, `0x` and its digits (R69). -/
def hexText (w : Word) : String := "0x" ++ String.ofList (Nat.toDigits 16 w.toNat)

/-- An index in decimal (R69). -/
def indexText (i : TapIndex) : String := String.ofList (Nat.toDigits 10 i.toNat)

/-- The textual form of an operation: its mnemonic, then its operands separated by commas (R69). -/
def asmText (i : Instr) : String :=
  match i with
  | .wrCfg d => Instr.mnemonic i ++ " " ++ hexText d
  | .filter d => Instr.mnemonic i ++ " " ++ hexText d
  | .wrB n d => Instr.mnemonic i ++ " " ++ indexText n ++ ", " ++ hexText d
  | .wrA n d => Instr.mnemonic i ++ " " ++ indexText n ++ ", " ++ hexText d
  | .rdB n => Instr.mnemonic i ++ " " ++ indexText n
  | .rdA n => Instr.mnemonic i ++ " " ++ indexText n
  | .rdXh n => Instr.mnemonic i ++ " " ++ indexText n
  | .rdYh n => Instr.mnemonic i ++ " " ++ indexText n
  | .rdCaps => Instr.mnemonic i
  | .rdCfg => Instr.mnemonic i
  | .rdStatus => Instr.mnemonic i
  | .configure => Instr.mnemonic i
  | .release => Instr.mnemonic i
  | .clearErr => Instr.mnemonic i
  | .rdYOut => Instr.mnemonic i

/-- A preset: "constant structs `{taps, in_weights, out_weights}` passed into one general constructor" (R110). -/
structure Preset where
  numIn : Byte
  numOut : Byte
  inWeights : List Word
  outWeights : List Word
  deriving DecidableEq, Repr

/-- The configuration sequence of a preset (R110). -/
def Preset.requests (p : Preset) : List Request := construction p.numIn p.numOut p.inWeights p.outWeights

/-- The binary64 word of 0.33333 (R111). -/
abbrev third : Word := 0x3FD555475A31A4BE#64

/-- The binary64 word of 1.0 (R111). -/
abbrev one : Word := 0x3FF0000000000000#64

/-- The moving-average preset (R111). -/
def movingAverage : Preset := ⟨3#8, 1#8, [third, third, third], [one]⟩

/-- The Butterworth-labeled preset: NUM_OUT = 3, and A[1], A[2] not written (R112). -/
def butterworth : Preset := ⟨3#8, 3#8, [third, third, third], [one]⟩

end Sys2Proof.Machine
end

