-- ==== Sys2Proof/Machine/Port.lean ====
section
/-! DEFINITION. The port cycle by cycle (20_memory.md R55, 70_reset_and_hazards.md R160, R162, R171): the handshake around the
transactions of Machine/Run.lean. The step of the machine does not use it. What R55, R56 and R160 leave open of single
cycles is the model's DESIGN CHOICE, each point named in notes/assumptions/5.md and at its definition. -/

namespace Sys2Proof.Machine

/-- What CORE is offered in a cycle: rst; req_write, req_addr and req_wdata where req_valid is 1; rsp_ready (R55). -/
structure PortIn where
  rst : Bool
  req : Option Request
  rspReady : Bool
  deriving DecidableEq, Repr

/-- What CORE drives in a cycle: req_ready; rsp_err and rsp_rdata where rsp_valid is 1 (R55). -/
structure PortOut where
  reqReady : Bool
  rsp : Option Response
  deriving DecidableEq, Repr

/-- Between transactions, or with one in flight: its response, and the cycles left until it is offered (R55, R171). -/
inductive PortPhase where
  | ready
  | waiting (answer : Response) (left : Nat)
  deriving DecidableEq, Repr

/-- CORE with its port. -/
structure PortState where
  arch : Arch
  phase : PortPhase
  deriving DecidableEq, Repr

/-- The cycles from a request's acceptance to its response (R171); that it depends on the header alone is a DESIGN CHOICE
(notes/assumptions/5.md). -/
def latency (r : Request) : Nat :=
  if r.header = 0x1030#13 then Config.filterLatency else Config.otherLatency r.header

/-- The outputs of a cycle: while reset is asserted "CORE accepts no request and gives no response" (R160); req_ready is 0
"from accepting a request until its response has been taken" (R55). R55 and R160 say only when req_ready is 0: that it is
1 in every other cycle, the first after rst is released included, is a DESIGN CHOICE (notes/assumptions/5.md). -/
def portOut (inp : PortIn) (p : PortState) : PortOut :=
  if inp.rst then { reqReady := false, rsp := none }
  else
    match p.phase with
    | .ready => { reqReady := true, rsp := none }
    | .waiting answer 0 => { reqReady := false, rsp := some answer }
    | .waiting _ (_ + 1) => { reqReady := false, rsp := none }

/-- The next state at the clock edge. A request is accepted where offered and ready; its effects are in place before its
response (R49), which comes `latency` cycles later, at the earliest in the next cycle (R55). Reset abandons whatever is in
flight (R162). DESIGN CHOICES, not said by R55: the effects land at the accepting edge, and an offered response stays
offered, unchanged, until it is taken (notes/assumptions/5.md). -/
def portClock (inp : PortIn) (p : PortState) : PortState :=
  if inp.rst then { arch := Arch.reset, phase := .ready }
  else
    match p.phase with
    | .ready =>
      match inp.req with
      | none => p
      | some r => { arch := (perform r p.arch).1, phase := .waiting (perform r p.arch).2 (latency r - 1) }
    | .waiting answer 0 =>
      if inp.rspReady then { arch := p.arch, phase := .ready } else { arch := p.arch, phase := .waiting answer 0 }
    | .waiting answer (n + 1) => { arch := p.arch, phase := .waiting answer n }

/-- The request accepted in a cycle, if any: req_valid and req_ready are both 1 (R55). -/
def accepted (inp : PortIn) (p : PortState) : List Request :=
  if (portOut inp p).reqReady then inp.req.toList else []

/-- The response delivered in a cycle, if any: rsp_valid and rsp_ready are both 1 (R55). -/
def delivered (inp : PortIn) (p : PortState) : List Response :=
  if inp.rspReady then (portOut inp p).rsp.toList else []

/-- The response of the transaction in flight, if any. -/
def PortPhase.inFlight : PortPhase → List Response
  | .ready => []
  | .waiting answer _ => [answer]

/-- What a run of cycles leaves: the requests accepted, the responses delivered, and the port's state. -/
structure PortRun where
  requests : List Request
  responses : List Response
  final : PortState
  deriving DecidableEq, Repr

/-- A run of cycles. Any inputs are allowed: R56 gives "no step" to a host that withdraws or changes an offered request
before it is accepted, and here, a DESIGN CHOICE, a request not accepted in its cycle leaves no trace, so such a move has
no effect (notes/assumptions/5.md). -/
def portRun : List PortIn → PortState → PortRun
  | [], p => { requests := [], responses := [], final := p }
  | inp :: rest, p =>
    let run := portRun rest (portClock inp p)
    { requests := accepted inp p ++ run.requests, responses := delivered inp p ++ run.responses, final := run.final }

end Sys2Proof.Machine
end

