-- ==== Sys2Proof/Machine/System.lean ====
section
/-! DEFINITION. Several instances of CORE, "Each has its own register space, its own copy of every state element ... and its
own host port" (60_exceptions.md R151). -/

namespace Sys2Proof.Machine

/-- The instances of a system, by number. -/
structure System where
  instances : List State
  deriving DecidableEq, Repr

/-- Instance `k` takes one step; nothing happens where there is no such instance. -/
def System.stepAt (sys : System) (k : Nat) : System :=
  match sys.instances[k]? with
  | none => sys
  | some s =>
    match step s with
    | .next t => { instances := sys.instances.set k t }
    | .fault _ => sys
    | .refused _ => sys

end Sys2Proof.Machine
end

