-- ==== Sys2Proof/Safety.lean ====
section
/-! DEFINITION. What the claims mean by a good state and a safe step. -/

namespace Sys2Proof.Machine

/-- NONE and the codes CORE raises; every other code is "reserved and never raised" (60_exceptions.md R141). -/
abbrev LegalErr (e : Byte) : Prop :=
  e ∈ [0x00#8, 0x01#8, 0x02#8, 0x03#8, 0x04#8, 0x10#8, 0x11#8, 0x20#8, 0x21#8]

/-- A configuration that CONFIGURE accepts (10_state.md R32, 41_commands.md R102). -/
abbrev Arch.LegalCfg (c : Arch) : Prop :=
  1 ≤ c.numIn.toNat ∧ c.numIn.toNat ≤ 20 ∧ c.numOut.toNat ≤ 20 ∧ feq0 c.a[0] = false

/-- The invariant of CORE's state: R32's bounds while configured, R33's zero histories while not, and R141's codes. -/
abbrev Arch.Inv (c : Arch) : Prop :=
  (c.configured = true → c.LegalCfg) ∧
  (c.configured = false → c.xh = zeroFile ∧ c.yh = zeroFile) ∧
  LegalErr c.lastErr

/-- A safe step: the machine goes on. -/
def GoesOn (s : State) : Prop := ∃ t, step s = .next t

/-- A read of the address; its WDATA is ignored (30_encoding.md R60). -/
abbrev readAt (addr : Addr) (wdata : Word) : Request := { write := false, addr := addr, wdata := wdata }

/-- A write to the address. -/
abbrev writeAt (addr : Addr) (wdata : Word) : Request := { write := true, addr := addr, wdata := wdata }

/-- Entry `i` as the tap index of an operation. -/
abbrev indexOf (i : Fin 20) : TapIndex := BitVec.ofNat 5 i.val

/-- The address of entry `i` of the file that starts at `base` (30_encoding.md R63). -/
abbrev entryAddr (base : Nat) (i : Fin 20) : Addr := BitVec.ofNat 12 (base + 8 * i.val)

/-- `s` with OKAY and `v` on the response channel. -/
abbrev State.answered (s : State) (v : Word) : State := { s with rsp := some { err := false, rdata := v } }

/-- `s` after a rejection: LAST_ERR holds `code`, the response is ERR with RDATA = 0, the rest is as before (60_exceptions.md
R142). -/
abbrev State.rejected (s : State) (code : Byte) : State :=
  { s with arch := { s.arch with lastErr := code }, rsp := some { err := true, rdata := 0#64 } }

/-- The operations that the lock rejects while configured (41_commands.md R106). -/
def lockedOp : Instr → Bool
  | .wrCfg _ => true
  | .wrB _ _ => true
  | .wrA _ _ => true
  | .configure => true
  | .rdCaps => false
  | .rdCfg => false
  | .rdStatus => false
  | .release => false
  | .clearErr => false
  | .filter _ => false
  | .rdYOut => false
  | .rdB _ => false
  | .rdA _ => false
  | .rdXh _ => false
  | .rdYh _ => false

/-- The decoder reads FILTER from the request, with some sample. -/
def DecodesToFilter (r : Request) : Prop := ∃ x, decodeRequest r = .ok (.filter x)

end Sys2Proof.Machine
end

