-- ==== Sys2Proof/Certificates/Slice0/Obligations.lean ====
section
/-! DEFINITION. The statements for the provers, each with the rules of the spec that it rests on. -/

open Sys2Proof Sys2Proof.Machine

/-! Encoding. -/

/-- R60, R64, R68: the decoder reads back every well-formed operation from its 77-bit word, whatever its operands. -/
def Obligations.DecodeOfEncodeIsIdentity : Prop :=
  ∀ i : Instr, i.wf = true → decode (encode i) = .ok i

/-- R60, R64, R66: what the decoder accepts is well formed, and its header, and its data word where the operation has
one, are those of the request. -/
def Obligations.EncodeOfDecodeRestoresTheRequest : Prop :=
  ∀ (r : Request) (i : Instr), decodeRequest r = .ok i →
    i.wf = true ∧ (encodeRequest i).header = r.header ∧
      ((encodeRequest i).wdata = r.wdata ∨ (encodeRequest i).wdata = 0#64) ∧
      (∀ d, i = .wrCfg d ∨ i = .filter d ∨ (∃ n, i = .wrB n d) ∨ (∃ n, i = .wrA n d) → d = r.wdata)

/-- R64 against R68: the decoder accepts exactly the headers that a row of the opcode table matches, exactly one row does,
and it reads that row's operation. -/
def Obligations.DecoderAgreesWithOpcodeTable : Prop :=
  ∀ r : Request,
    (∀ i, decodeRequest r = .ok i →
      ∃ row, opcodeTable.filter (fun q => q.accepts r.header) = [row] ∧ row.mnemonic = i.mnemonic) ∧
    (∀ e, decodeRequest r = .error e → opcodeTable.filter (fun q => q.accepts r.header) = [])

/-- R60, R61: requests and responses are their 77 and 65 bits; every 77-bit value is a request. -/
def Obligations.TransactionWordsRoundTrip : Prop :=
  (∀ r : Request, Request.ofBits r.toBits = r) ∧ (∀ v : BitVec 77, (Request.ofBits v).toBits = v) ∧
    (∀ r : Response, Response.ofBits r.toBits = r) ∧ (∀ v : BitVec 65, (Response.ofBits v).toBits = v)

/-- R63, R68: words written out from the opcode table's bits decode to their operations. -/
def Obligations.SampleWordsDecode : Prop :=
  decode 0x011003FD555475A31A4BE#77 = .ok (.wrB 0#5 0x3FD555475A31A4BE#64) ∧
    decode (0b0000000001000#13 ++ 0#64) = .ok .rdCfg ∧
    decode (0b1000000011000#13 ++ 0xFFFFFFFFFFFFFFFF#64) = .ok .configure ∧
    decode (0b1000000110000#13 ++ 0x3FF0000000000000#64) = .ok (.filter 0x3FF0000000000000#64) ∧
    decode (0b0010010011000#13 ++ 0#64) = .ok (.rdYh 19#5)

/-- R41, R45, R48, R67: what the decoder rejects, by address, and with which code; misalignment and unmapped addresses come
before the access check (R143), and everything else is accepted. -/
def Obligations.DecoderRejectsByAddress : Prop :=
  ∀ r : Request,
    if r.addr.toNat % 8 ≠ 0 then decodeRequest r = .error .badAddress
    else if (0x040 ≤ r.addr.toNat ∧ r.addr.toNat ≤ 0x0F8) ∨ (0x1A0 ≤ r.addr.toNat ∧ r.addr.toNat ≤ 0x1F8) ∨
        (0x2A0 ≤ r.addr.toNat ∧ r.addr.toNat ≤ 0x2F8) ∨ (0x3A0 ≤ r.addr.toNat ∧ r.addr.toNat ≤ 0x3F8) ∨
        (0x4A0 ≤ r.addr.toNat ∧ r.addr.toNat ≤ 0x4F8) ∨ 0x500 ≤ r.addr.toNat then
      decodeRequest r = .error .badAddress
    else if r.write = true ∧ (r.addr.toNat ∈ [0x000, 0x010, 0x038] ∨ 0x300 ≤ r.addr.toNat) then
      decodeRequest r = .error .badAccess
    else if r.write = false ∧ r.addr.toNat ∈ [0x018, 0x020, 0x028, 0x030] then
      decodeRequest r = .error .badAccess
    else ∃ i, decodeRequest r = .ok i

/-! The step. -/

/-- R49, R64: a step performs the operation that the decoder reads from the next request's bits, with the request taken. -/
def Obligations.StepPerformsTheDecodedOperation : Prop :=
  ∀ (s : State) (r : Request) (rest : List HostInput) (i : Instr),
    s.pending = .request r :: rest → decode r.toBits = .ok i → step s = exec i { s with pending := rest }

/-- R140, R141, R142: a request that the decoder rejects changes LAST_ERR alone and is answered with ERR and RDATA = 0. -/
def Obligations.StepRejectsWhatTheDecoderRejects : Prop :=
  ∀ (s : State) (r : Request) (rest : List HostInput), s.pending = .request r :: rest →
    (decodeRequest r = .error .badAddress → step s = .next ({ s with pending := rest }.rejected 0x20#8)) ∧
    (decodeRequest r = .error .badAccess → step s = .next ({ s with pending := rest }.rejected 0x21#8))

/-- The table word placed by withFetchWord is what the next step performs, and the rest of the machine is as before. -/
def Obligations.TableWordRunsNext : Prop :=
  ∀ (s : State) (nbits w : Nat) (i : Instr), decodeTableWord nbits w = some i →
    step (s.withFetchWord nbits w) = exec i s

/-- R140: every step goes on, and a request is answered in the step that takes it. -/
def Obligations.EveryRequestIsAnswered : Prop :=
  (∀ s : State, GoesOn s) ∧
    ∀ (s : State) (r : Request) (rest : List HostInput), s.pending = .request r :: rest →
      ∃ t q, step s = .next t ∧ t.rsp = some q ∧ t.pending = rest

/-- R160, R162: reset, also in the middle of a transaction, leaves the reset state and no response. -/
def Obligations.ResetAbandonsTheTransaction : Prop :=
  ∀ (s : State) (r : Request) (rest : List HostInput),
    (s.pending = .reset :: rest → step s = .next { arch := Arch.reset, pending := rest, rsp := none }) ∧
    (s.pending = .resetDuring r :: rest → step s = .next { arch := Arch.reset, pending := rest, rsp := none })

/-- R153: with nothing offered CORE holds its state, for as long as nothing is offered. -/
def Obligations.IdleHoldsTheState : Prop :=
  ∀ (s : State) (n : Nat), s.pending = [] → Host.Core.run Sys2Proof.core n s = .next s

/-- R36: the reset value of every element, CFG's reserved bits and CAPS; RELEASE leaves the same values, from any state. -/
def Obligations.ResetValues : Prop :=
  (∀ i : Fin 20, State.reset.arch.b[i] = 0x0000000000000000#64 ∧ State.reset.arch.a[i] = 0x0000000000000000#64 ∧
      State.reset.arch.xh[i] = 0x0000000000000000#64 ∧ State.reset.arch.yh[i] = 0x0000000000000000#64) ∧
    State.reset.arch.numIn = 0#8 ∧ State.reset.arch.numOut = 0#8 ∧ State.reset.arch.configured = false ∧
    State.reset.arch.lastErr = 0#8 ∧ peek State.reset.arch 0x008#12 = some 0x0000000000000000#64 ∧
    peek State.reset.arch 0x000#12 = some 0x0000000000000114#64 ∧
    ∀ s : State, ∃ t, exec .release s = .next t ∧ t.arch = State.reset.arch

/-! Register reads. -/

/-- R81, R82, R84: RD_CAPS, RD_CFG and RD_STATUS answer OKAY with their word in both states and change nothing. -/
def Obligations.ControlRegisterReads : Prop :=
  ∀ (s : State) (wdata : Word),
    (decodeRequest (readAt 0x000#12 wdata) = .ok .rdCaps ∧
      exec .rdCaps s = .next (s.answered 0x0000000000000114#64)) ∧
    (decodeRequest (readAt 0x008#12 wdata) = .ok .rdCfg ∧
      exec .rdCfg s = .next (s.answered (BitVec.ofNat 64 (s.arch.numOut.toNat * 0x100 + s.arch.numIn.toNat)))) ∧
    (decodeRequest (readAt 0x010#12 wdata) = .ok .rdStatus ∧
      exec .rdStatus s =
        .next (s.answered (BitVec.ofNat 64 (s.arch.lastErr.toNat * 0x100 + s.arch.configured.toNat))))

/-- R85, R87: RD_B i and RD_A i answer OKAY with the entry's bits, for all 20 entries, and change nothing. -/
def Obligations.WeightReads : Prop :=
  ∀ (s : State) (i : Fin 20) (wdata : Word),
    (decodeRequest (readAt (entryAddr 0x100 i) wdata) = .ok (.rdB (indexOf i)) ∧
      exec (.rdB (indexOf i)) s = .next (s.answered s.arch.b[i])) ∧
    (decodeRequest (readAt (entryAddr 0x200 i) wdata) = .ok (.rdA (indexOf i)) ∧
      exec (.rdA (indexOf i)) s = .next (s.answered s.arch.a[i]))

/-- R89, R90, R91: RD_XH i, RD_YH i and RD_Y_OUT answer OKAY with the entry's bits and change nothing. -/
def Obligations.HistoryReads : Prop :=
  ∀ (s : State) (i : Fin 20) (wdata : Word),
    (decodeRequest (readAt (entryAddr 0x300 i) wdata) = .ok (.rdXh (indexOf i)) ∧
      exec (.rdXh (indexOf i)) s = .next (s.answered s.arch.xh[i])) ∧
    (decodeRequest (readAt (entryAddr 0x400 i) wdata) = .ok (.rdYh (indexOf i)) ∧
      exec (.rdYh (indexOf i)) s = .next (s.answered s.arch.yh[i])) ∧
    (decodeRequest (readAt 0x038#12 wdata) = .ok .rdYOut ∧
      exec .rdYOut s = .next (s.answered s.arch.yh[0]))

/-- An ill-formed operation, of a tap index 20..31 that the decoder never gives, is rejected with BAD_ADDRESS and changes
LAST_ERR alone. That exec does so is the model's choice (notes/assumptions/4.md); R65's rule is the decoder's
(DecoderRejectsByAddress). R142 says what a rejection does. -/
def Obligations.ReservedTapIndexIsRejected : Prop :=
  ∀ (s : State) (i : TapIndex) (w : Word), 20 ≤ i.toNat →
    ∀ op ∈ [Instr.rdB i, Instr.wrB i w, Instr.rdA i, Instr.wrA i w, Instr.rdXh i, Instr.rdYh i],
      exec op s = .next (s.rejected 0x20#8)

/-! Register writes. -/

/-- R83: WR_CFG stores WDATA[7:0] and WDATA[15:8], any values, while unconfigured, and nothing else changes; while configured
it is LOCKED. -/
def Obligations.CountsWrite : Prop :=
  ∀ (s : State) (wdata : Word),
    decodeRequest (writeAt 0x008#12 wdata) = .ok (.wrCfg wdata) ∧
    (s.arch.configured = false → exec (.wrCfg wdata) s = .next ({ s with arch := { s.arch with
        numIn := BitVec.ofNat 8 (wdata.toNat % 0x100)
        numOut := BitVec.ofNat 8 (wdata.toNat / 0x100 % 0x100) } }.answered 0#64)) ∧
    (s.arch.configured = true → exec (.wrCfg wdata) s = .next (s.rejected 0x11#8))

/-- R86, R88: WR_B i and WR_A i store the word verbatim in their entry while unconfigured, and no other entry and nothing
else changes; while configured they are LOCKED. -/
def Obligations.WeightWrites : Prop :=
  ∀ (s : State) (i : Fin 20) (w : Word),
    decodeRequest (writeAt (entryAddr 0x100 i) w) = .ok (.wrB (indexOf i) w) ∧
    decodeRequest (writeAt (entryAddr 0x200 i) w) = .ok (.wrA (indexOf i) w) ∧
    (s.arch.configured = false →
      (∃ f : TapFile, exec (.wrB (indexOf i) w) s = .next ({ s with arch := { s.arch with b := f } }.answered 0#64) ∧
        f[i] = w ∧ ∀ j : Fin 20, j ≠ i → f[j] = s.arch.b[j]) ∧
      (∃ f : TapFile, exec (.wrA (indexOf i) w) s = .next ({ s with arch := { s.arch with a := f } }.answered 0#64) ∧
        f[i] = w ∧ ∀ j : Fin 20, j ≠ i → f[j] = s.arch.a[j])) ∧
    (s.arch.configured = true →
      exec (.wrB (indexOf i) w) s = .next (s.rejected 0x11#8) ∧
      exec (.wrA (indexOf i) w) s = .next (s.rejected 0x11#8))

/-- R106: while configured, WR_CFG, WR_B, WR_A and CONFIGURE are rejected with LOCKED and change LAST_ERR alone; every other
operation is accepted. -/
def Obligations.LockGuardsTheConfiguration : Prop :=
  ∀ (s : State) (i : Instr), s.arch.configured = true → i.wf = true →
    (lockedOp i = true → exec i s = .next (s.rejected 0x11#8)) ∧
    (lockedOp i = false → ∃ t v, exec i s = .next t ∧ t.rsp = some { err := false, rdata := v })

/-! Commands. -/

/-- R101, R102: CONFIGURE, WDATA ignored: LOCKED, then the four checks in their order, each changing LAST_ERR alone; else both
histories are zeroed and CONFIGURED is set, and nothing else changes. -/
def Obligations.ConfigureChecksThenConstructs : Prop :=
  ∀ (s : State) (wdata : Word),
    decodeRequest (writeAt 0x018#12 wdata) = .ok .configure ∧
    if s.arch.configured = true then exec .configure s = .next (s.rejected 0x11#8)
    else if s.arch.numIn.toNat > 20 then exec .configure s = .next (s.rejected 0x01#8)
    else if s.arch.numIn.toNat = 0 then exec .configure s = .next (s.rejected 0x02#8)
    else if s.arch.numOut.toNat > 20 then exec .configure s = .next (s.rejected 0x03#8)
    else if s.arch.a[0] = 0x0000000000000000#64 ∨ s.arch.a[0] = 0x8000000000000000#64 then
      exec .configure s = .next (s.rejected 0x04#8)
    else ∃ x y : TapFile, exec .configure s = .next ({ s with arch := { s.arch with
        configured := true, xh := x, yh := y } }.answered 0#64) ∧
      ∀ i : Fin 20, x[i] = 0x0000000000000000#64 ∧ y[i] = 0x0000000000000000#64

/-- R104: RELEASE, WDATA ignored, leaves every element of CORE's state at its reset value, from either state. -/
def Obligations.ReleaseRestoresTheResetState : Prop :=
  ∀ (s : State) (wdata : Word),
    decodeRequest (writeAt 0x020#12 wdata) = .ok .release ∧
    ∃ t, exec .release s = .next t ∧ t = { s with arch := t.arch }.answered 0#64 ∧ t.arch = Arch.reset ∧
      (∀ i : Fin 20, t.arch.b[i] = 0#64 ∧ t.arch.a[i] = 0#64 ∧ t.arch.xh[i] = 0#64 ∧ t.arch.yh[i] = 0#64) ∧
      t.arch.numIn = 0#8 ∧ t.arch.numOut = 0#8 ∧ t.arch.configured = false ∧ t.arch.lastErr = 0#8

/-- R105: CLEAR_ERR, WDATA ignored, clears LAST_ERR and changes nothing else, from either state. -/
def Obligations.ClearErrClearsOnlyTheCode : Prop :=
  ∀ (s : State) (wdata : Word),
    decodeRequest (writeAt 0x028#12 wdata) = .ok .clearErr ∧
    exec .clearErr s = .next ({ s with arch := { s.arch with lastErr := 0x00#8 } }.answered 0#64)

/-- R47: every transaction but FILTER and CONFIGURE, repeated, answers and leaves what it did the first time; a second
CONFIGURE after one that succeeded is LOCKED. -/
def Obligations.RepeatedTransactionsAreIdempotent : Prop :=
  ∀ (r : Request) (c : Arch),
    (¬ DecodesToFilter r → decodeRequest r ≠ .ok .configure → perform r (perform r c).1 = perform r c) ∧
    (decodeRequest r = .ok .configure → (perform r c).2.err = false →
      perform r (perform r c).1 = ({ (perform r c).1 with lastErr := 0x11#8 }, { err := true, rdata := 0#64 }))

/-! The filter step. -/

/-- R120 to R125: FILTER on a configured instance: XH shifts and takes the sample, YH shifts and takes
(Σ B[i]·XH[i] - Σ A[j]·YH[j-1]) / A[0], each sum folded in ascending order from +0.0, and nothing else changes; unconfigured
it is rejected with NOT_CONFIGURED. The bounds on the counts are those of R32's invariant (StepKeepsTheInvariant). -/
def Obligations.FilterEvaluatesTheRecurrence : Prop :=
  ∀ (s : State) (x : Word),
    decodeRequest (writeAt 0x030#12 x) = .ok (.filter x) ∧
    (s.arch.configured = true → s.arch.numIn.toNat ≤ 20 → s.arch.numOut.toNat ≤ 20 →
      ∃ xh yh : TapFile,
        exec (.filter x) s = .next ({ s with arch := { s.arch with xh := xh, yh := yh } }.answered 0#64) ∧
        xh[0] = x ∧ (∀ i : Fin 19, xh[i.val + 1] = s.arch.xh[i.val]) ∧
        yh[0] = fdiv (fsub
            ((List.zipWith fmul (s.arch.b.toList.take s.arch.numIn.toNat) (x :: s.arch.xh.toList)).foldl fadd 0#64)
            ((List.zipWith fmul ((s.arch.a.toList.drop 1).take (s.arch.numOut.toNat - 1)) s.arch.yh.toList).foldl
              fadd 0#64))
          s.arch.a[0] ∧
        (∀ i : Fin 19, yh[i.val + 1] = s.arch.yh[i.val])) ∧
    (s.arch.configured = false → exec (.filter x) s = .next (s.rejected 0x10#8))

/-- R30, R31, R89, R90: from zero histories, after any list of samples XH[i] is the sample fed i steps ago, YH[i] the
output of i steps ago, and +0.0 before the first. -/
def Obligations.HistoriesHoldTheLastTwenty : Prop :=
  ∀ (c : Arch) (xs : List Word), c.configured = true → c.xh = zeroFile → c.yh = zeroFile →
    ∀ i : Fin 20,
      (feed xs c).1.xh[i] = (xs.reverse[i.val]?).getD posZero ∧
      (feed xs c).1.yh[i] = ((feed xs c).2.reverse[i.val]?).getD posZero

/-- R108, R128: the output depends only on the counts, B below NUM_IN, A below NUM_OUT with A[0], XH below NUM_IN - 1 (the
sample stands before it) and YH below NUM_OUT - 1. YH[19], the output of twenty steps ago, never enters. -/
def Obligations.FilterReadsOnlyTheActiveEntries : Prop :=
  ∀ (c d : Arch) (x : Word), c.configured = true → d.configured = true →
    c.numIn = d.numIn → c.numOut = d.numOut → c.numIn.toNat ≤ 20 → c.numOut.toNat ≤ 20 →
    (∀ i : Fin 20, i.val < c.numIn.toNat → c.b[i] = d.b[i]) →
    (∀ i : Fin 20, i.val < c.numOut.toNat ∨ i.val = 0 → c.a[i] = d.a[i]) →
    (∀ i : Fin 20, i.val + 1 < c.numIn.toNat → c.xh[i] = d.xh[i]) →
    (∀ i : Fin 20, i.val + 1 < c.numOut.toNat → c.yh[i] = d.yh[i]) →
    (feed [x] c).2 = (feed [x] d).2

/-- R127: the datapath of 20 lanes, its active products reduced in ascending order, gives the bits of the filter step's sums. -/
def Obligations.LaneDatapathGivesTheFoldBits : Prop :=
  ∀ (c : Arch) (xh : TapFile), c.LegalCfg →
    laneFeedForward c xh = feedForward c xh ∧ laneFeedBack c = feedBack c

/-- R130: a sum whose every product is a zero, of either sign, is +0.0. -/
def Obligations.SumOfZerosIsPositiveZero : Prop :=
  ∀ (w h : TapFile) (lo n : Nat), (∀ t, t < n → feq0 (fmul (tap w (lo + t)) (tap h t)) = true) →
    dot w h lo n = 0x0000000000000000#64

/-- R129, R132: with NUM_OUT at least 2, a NaN output makes every later output a NaN, whatever the samples; nothing is
assumed of the NaN's bits. -/
def Obligations.NanOutputPersists : Prop :=
  ∀ (c : Arch) (xs : List Word), c.configured = true → 2 ≤ c.numOut.toNat → c.numOut.toNat ≤ 20 →
    isNan c.yh[0] = true → ∀ y ∈ (feed xs c).2, isNan y = true

/-- R112: the Butterworth-labeled preset gives the moving-average preset's outputs bit for bit while every output of the
latter is finite. -/
def Obligations.PresetsAgreeWhileFinite : Prop :=
  ∀ xs : List Word,
    (∀ y ∈ (feed xs (performAll movingAverage.requests Arch.reset).1).2, isFinite y = true) →
      (feed xs (performAll butterworth.requests Arch.reset).1).2 =
        (feed xs (performAll movingAverage.requests Arch.reset).1).2

/-- R113: the general construction from an unconfigured state, with lists of any length: every transaction is accepted, the
counts are in place, each entry below its count takes the weight its list gives for it, every other entry keeps its word,
and the instance is configured. That a list may be shorter than its count is the model's choice (notes/assumptions/10.md). -/
def Obligations.ConstructionConfigures : Prop :=
  ∀ (c : Arch) (m k : Byte) (bs as : List Word), c.configured = false →
    1 ≤ m.toNat → m.toNat ≤ 20 → k.toNat ≤ 20 →
    feq0 (if 0 < k.toNat then as[0]?.getD c.a[0] else c.a[0]) = false →
    (∀ q ∈ (performAll (construction m k bs as) c).2, q = { err := false, rdata := 0#64 }) ∧
    (performAll (construction m k bs as) c).1.configured = true ∧
    (performAll (construction m k bs as) c).1.numIn = m ∧
    (performAll (construction m k bs as) c).1.numOut = k ∧
    ∀ i : Fin 20,
      (performAll (construction m k bs as) c).1.b[i] =
        (if i.val < m.toNat then bs[i.val]?.getD c.b[i] else c.b[i]) ∧
      (performAll (construction m k bs as) c).1.a[i] =
        (if i.val < k.toNat then as[i.val]?.getD c.a[i] else c.a[i])

/-- R51, R91, R170: RD_Y_OUT returns the output of the latest FILTER, whatever transactions other than FILTER and RELEASE come
between. -/
def Obligations.OutputStandsUntilTheNextFilter : Prop :=
  ∀ (c : Arch) (x : Word) (between : List Request), c.configured = true →
    (∀ r ∈ between, ¬ DecodesToFilter r ∧ decodeRequest r ≠ .ok .release) →
    (perform (encodeRequest .rdYOut)
        (performAll between (perform (encodeRequest (.filter x)) c).1).1).2 =
      { err := false, rdata := filterOutput x c }

/-- R51, R172: another host's FILTER between a host's FILTER and its RD_Y_OUT makes both hosts read the second output. -/
def Obligations.UnserializedHostsReadTheLaterOutput : Prop :=
  ∀ (c : Arch) (x y : Word), c.configured = true →
    (performAll [encodeRequest (.filter x), encodeRequest (.filter y), encodeRequest .rdYOut, encodeRequest .rdYOut] c).2 =
      [{ err := false, rdata := 0#64 }, { err := false, rdata := 0#64 },
        { err := false, rdata := filterOutput y (filterEval x c) },
        { err := false, rdata := filterOutput y (filterEval x c) }]

/-! Binary64. -/

/-- R16: feq0 is true for +0.0 and -0.0 and for no other word. -/
def Obligations.FeqZeroIsExactlyTheZeros : Prop :=
  ∀ w : Word, feq0 w = true ↔ w = 0x0000000000000000#64 ∨ w = 0x8000000000000000#64

/-- R14, R132: NaN operands and the invalid operations give a NaN, of no particular bits. -/
def Obligations.InvalidOperationsGiveNan : Prop :=
  ∀ p q : Word,
    (isNan p = true ∨ isNan q = true →
      isNan (fadd p q) = true ∧ isNan (fsub p q) = true ∧ isNan (fmul p q) = true ∧ isNan (fdiv p q) = true) ∧
    (feq0 p = true → isInf q = true → isNan (fmul p q) = true ∧ isNan (fmul q p) = true) ∧
    (isInf p = true → isInf q = true → isNan (fdiv p q) = true ∧
      (signBit p = signBit q → isNan (fsub p q) = true) ∧ (signBit p ≠ signBit q → isNan (fadd p q) = true)) ∧
    (feq0 p = true → feq0 q = true → isNan (fdiv p q) = true)

/-- R14: the special values that are not NaN, each with its sign, those of IEEE 754 (notes/assumptions/8.md). A finite nonzero
number over a zero is an infinity, p - p is +0.0 for finite p, an infinity wins over a finite term and over an infinity that
agrees with it, a product with an infinity and no zero is an infinity, an infinity over a finite number is one, zero
included, and a finite number over an infinity is a zero. -/
def Obligations.SpecialValueResults : Prop :=
  ∀ p q : Word,
    (isFinite p = true → feq0 p = false → feq0 q = true →
      isInf (fdiv p q) = true ∧ signBit (fdiv p q) = (signBit p != signBit q)) ∧
    (isFinite p = true → fsub p p = 0x0000000000000000#64) ∧
    (isInf p = true → isFinite q = true → fadd p q = p ∧ fadd q p = p) ∧
    (isInf p = true → isInf q = true → signBit p = signBit q → fadd p q = p) ∧
    (isInf p = true → isFinite q = true → fsub p q = p ∧ fsub q p = p ^^^ 0x8000000000000000#64) ∧
    (isInf p = true → isInf q = true → signBit p ≠ signBit q → fsub p q = p) ∧
    (isInf p = true → isFinite q = true → feq0 q = false →
      isInf (fmul p q) = true ∧ signBit (fmul p q) = (signBit p != signBit q) ∧ fmul q p = fmul p q) ∧
    (isInf p = true → isInf q = true →
      isInf (fmul p q) = true ∧ signBit (fmul p q) = (signBit p != signBit q)) ∧
    (isInf p = true → isFinite q = true →
      isInf (fdiv p q) = true ∧ signBit (fdiv p q) = (signBit p != signBit q)) ∧
    (isFinite p = true → isInf q = true →
      feq0 (fdiv p q) = true ∧ signBit (fdiv p q) = (signBit p != signBit q))

/-- R14, R131: `roundMag n d` is the magnitude nearest to n/d quanta among all finite ones, with an even last bit in a tie, and
it is an infinity exactly from half a spacing beyond the largest finite magnitude on. -/
def Obligations.RoundingIsToNearestTiesToEven : Prop :=
  ∀ n d : Nat, 0 < d →
    (roundMag n d < infMag → ∀ v, v < infMag →
      |(n : ℤ) - d * magQuanta (packWord false (roundMag n d))| ≤ |(n : ℤ) - d * magQuanta (packWord false v)| ∧
      (|(n : ℤ) - d * magQuanta (packWord false (roundMag n d))| = |(n : ℤ) - d * magQuanta (packWord false v)| →
        v ≠ roundMag n d → roundMag n d % 2 = 0)) ∧
    (roundMag n d = infMag ↔ (2 ^ 54 - 1) * 2 ^ 2044 * d ≤ n)

/-- R14: a sum, difference, product or quotient that is a finite binary64 number is returned exactly. -/
def Obligations.RepresentableResultsAreExact : Prop :=
  ∀ p q r : Word, isFinite p = true → isFinite q = true → isFinite r = true →
    (quanta p + quanta q = quanta r → quanta (fadd p q) = quanta r) ∧
    (quanta p - quanta q = quanta r → quanta (fsub p q) = quanta r) ∧
    (quanta p * quanta q = quanta r * 2 ^ 1074 → quanta (fmul p q) = quanta r) ∧
    (feq0 q = false → quanta p * 2 ^ 1074 = quanta r * quanta q → quanta (fdiv p q) = quanta r)

/-- R14: on finite operands each operation rounds its exact result once: the result has the sign of the exact one, and the
rounded magnitude of it; an exact zero has IEEE 754's sign (notes/assumptions/8.md). Values are in quanta of 2^-1074. -/
def Obligations.OperationsRoundTheExactResultOnce : Prop :=
  ∀ p q : Word, isFinite p = true → isFinite q = true →
    (quanta p + quanta q ≠ 0 →
      fadd p q = packWord (decide (quanta p + quanta q < 0)) (roundMag (quanta p + quanta q).natAbs 1)) ∧
    (quanta p + quanta q = 0 → fadd p q = packWord (signBit p && signBit q) 0) ∧
    (quanta p - quanta q ≠ 0 →
      fsub p q = packWord (decide (quanta p - quanta q < 0)) (roundMag (quanta p - quanta q).natAbs 1)) ∧
    (quanta p - quanta q = 0 → fsub p q = packWord (signBit p && !signBit q) 0) ∧
    (quanta p * quanta q ≠ 0 →
      fmul p q = packWord (decide (quanta p * quanta q < 0)) (roundMag (quanta p * quanta q).natAbs (2 ^ 1074))) ∧
    (quanta p * quanta q = 0 → fmul p q = packWord (signBit p != signBit q) 0) ∧
    (quanta p ≠ 0 → quanta q ≠ 0 →
      fdiv p q = packWord (decide (quanta p * quanta q < 0))
        (roundMag (quanta p * 2 ^ 1074).natAbs (quanta q).natAbs)) ∧
    (quanta p = 0 → quanta q ≠ 0 → fdiv p q = packWord (signBit p != signBit q) 0)

/-- R14, R131: on finite operands a finite result is the word nearest to the exact value among all finite words, with an even
last bit where another value is as near; a result that is not finite is an infinity of the exact value's sign, and the
exact value lies at least half a spacing beyond the largest finite word. The exact value is `num / den` quanta. -/
def Obligations.ResultsAreNearestToTheExactValue : Prop :=
  ∀ p q : Word, isFinite p = true → isFinite q = true →
    ∀ (r : Word) (num den : ℤ),
      (r = fadd p q ∧ num = quanta p + quanta q ∧ den = 1) ∨
      (r = fsub p q ∧ num = quanta p - quanta q ∧ den = 1) ∨
      (r = fmul p q ∧ num = quanta p * quanta q ∧ den = 2 ^ 1074) ∨
      (r = fdiv p q ∧ quanta q ≠ 0 ∧ num = quanta p * 2 ^ 1074 ∧ den = quanta q) →
    (isFinite r = true → ∀ v : Word, isFinite v = true →
      |num - den * quanta r| ≤ |num - den * quanta v| ∧
      (|num - den * quanta r| = |num - den * quanta v| → quanta v ≠ quanta r → r.getLsbD 0 = false)) ∧
    (isFinite r = false →
      isInf r = true ∧ signBit r = decide (num * den < 0) ∧ (2 ^ 54 - 1) * 2 ^ 2044 * |den| ≤ |num|) ∧
    ((2 ^ 54 - 1) * 2 ^ 2044 * |den| ≤ |num| → isFinite r = false)

/-! The whole machine. -/

/-- R32, R33, R141: the invariant holds at reset. -/
def Obligations.ResetMeetsTheInvariant : Prop := State.reset.arch.Inv

/-- R32, R33, R141: every step from a state that meets the invariant leaves one that does, whatever the hosts offer. -/
def Obligations.StepKeepsTheInvariant : Prop :=
  ∀ s t : State, s.arch.Inv → step s = .next t → t.arch.Inv

/-- R32, R106: across any step that starts and ends configured, CFG, B and A keep their values. -/
def Obligations.ConfigurationIsFixedWhileConfigured : Prop :=
  ∀ s t : State, step s = .next t → s.arch.configured = true → t.arch.configured = true →
    t.arch.b = s.arch.b ∧ t.arch.a = s.arch.a ∧ t.arch.numIn = s.arch.numIn ∧ t.arch.numOut = s.arch.numOut

/-- R103: a step that enters the configured state is a CONFIGURE on a legal configuration. -/
def Obligations.OnlyConfigureEntersTheConfiguredState : Prop :=
  ∀ s t : State, step s = .next t → s.arch.configured = false → t.arch.configured = true →
    s.arch.LegalCfg ∧ ∃ r rest, s.pending = .request r :: rest ∧ decodeRequest r = .ok .configure

/-- R22, R23, R25, R26, R30, R31: which operations write each element; every other operation leaves it as it was. LAST_ERR is
written by CLEAR_ERR, RELEASE and whatever is rejected. -/
def Obligations.EachElementHasItsWriters : Prop :=
  ∀ (i : Instr) (s t : State), exec i s = .next t →
    t.pending = s.pending ∧
    (t.arch.b ≠ s.arch.b → i = .release ∨ (s.arch.configured = false ∧ ∃ n w, i = .wrB n w)) ∧
    (t.arch.a ≠ s.arch.a → i = .release ∨ (s.arch.configured = false ∧ ∃ n w, i = .wrA n w)) ∧
    (t.arch.numIn ≠ s.arch.numIn ∨ t.arch.numOut ≠ s.arch.numOut →
      i = .release ∨ (s.arch.configured = false ∧ ∃ w, i = .wrCfg w)) ∧
    (t.arch.configured ≠ s.arch.configured → i = .release ∨ i = .configure) ∧
    (t.arch.xh ≠ s.arch.xh ∨ t.arch.yh ≠ s.arch.yh →
      i = .release ∨ i = .configure ∨ (s.arch.configured = true ∧ ∃ x, i = .filter x)) ∧
    (t.arch.lastErr ≠ s.arch.lastErr →
      i = .release ∨ i = .clearErr ∨ t.rsp = some { err := true, rdata := 0#64 })

/-- R37, R61, R140, R142, R145: a rejected transaction changes LAST_ERR alone, to a code that is raised, with RDATA = 0; an
accepted one leaves LAST_ERR, but for CLEAR_ERR and RELEASE, which clear it; an accepted write answers RDATA = 0 and an
accepted read changes nothing. -/
def Obligations.ResponsesAndLastErr : Prop :=
  ∀ (s t : State) (r : Request) (rest : List HostInput) (q : Response),
    s.pending = .request r :: rest → step s = .next t → t.rsp = some q →
    (q.err = true → t.arch = { s.arch with lastErr := t.arch.lastErr } ∧ q.rdata = 0#64 ∧
      t.arch.lastErr ∈ [0x01#8, 0x02#8, 0x03#8, 0x04#8, 0x10#8, 0x11#8, 0x20#8, 0x21#8]) ∧
    (q.err = false →
      (decodeRequest r = .ok .clearErr ∨ decodeRequest r = .ok .release → t.arch.lastErr = 0x00#8) ∧
      (decodeRequest r ≠ .ok .clearErr → decodeRequest r ≠ .ok .release → t.arch.lastErr = s.arch.lastErr) ∧
      (r.write = true → q.rdata = 0#64) ∧ (r.write = false → t.arch = s.arch))

/-- R34, R49: the response and CORE's next state are functions of CORE's state and the request; what the port held before has
no part in them. -/
def Obligations.PortContentsDoNotMatter : Prop :=
  ∀ (s s' t t' : State) (r : Request) (rest rest' : List HostInput), s.arch = s'.arch →
    s.pending = .request r :: rest → s'.pending = .request r :: rest' →
    step s = .next t → step s' = .next t' → t.arch = t'.arch ∧ t.rsp = t'.rsp

/-- R133: after RELEASE the same transactions give the same responses and the same state as after reset, bit for bit. -/
def Obligations.ReleaseGivesAFreshInstance : Prop :=
  ∀ (c : Arch) (rs : List Request),
    performAll (encodeRequest .release :: rs) c =
      ((performAll rs Arch.reset).1, { err := false, rdata := 0#64 } :: (performAll rs Arch.reset).2)

/-- R34, R152: the reads show every element of the state: two states that answer every read alike are equal. -/
def Obligations.ReadsDetermineTheState : Prop :=
  ∀ c d : Arch, (∀ addr : Addr, peek c addr = peek d addr) → c = d

/-- R43, R45: the eight byte lanes of a word put together, lane 0 lowest, are the word; lane k of a slot stands at slot + k, and
only lane 0's address is an address of a transaction. -/
def Obligations.ByteLanesAreLittleEndian : Prop :=
  (∀ w : Word, w = byteLane w 7 ++ byteLane w 6 ++ byteLane w 5 ++ byteLane w 4 ++
      byteLane w 3 ++ byteLane w 2 ++ byteLane w 1 ++ byteLane w 0) ∧
    ∀ (slot : Addr) (k : Fin 8) (wdata : Word), slot.toNat % 8 = 0 →
      (laneAddr slot k).toNat = slot.toNat + k.val ∧
      (k ≠ 0 → decodeRequest (readAt (laneAddr slot k) wdata) = .error .badAddress ∧
        decodeRequest (writeAt (laneAddr slot k) wdata) = .error .badAddress)

/-- R151: a step of one instance leaves every other instance as it was, and equal instances take equal steps. -/
def Obligations.InstancesAreIndependent : Prop :=
  ∀ (sys : System) (j k : Nat),
    (j ≠ k → (sys.stepAt k).instances[j]? = sys.instances[j]?) ∧
    (sys.instances[j]? = sys.instances[k]? → (sys.stepAt j).instances[j]? = (sys.stepAt k).instances[k]?)

/-! The port, cycle by cycle. -/

/-- R49, R55, R171: over any run of cycles without reset, whatever the latencies, the port performs the accepted requests in order:
CORE ends in their state, and the responses delivered, with the one in flight, are theirs in order. Where R55 and R56 are
silent on single cycles the port is the model's choice (notes/assumptions/5.md). -/
def Obligations.PortRefinesTransactions : Prop :=
  ∀ (cycles : List PortIn) (c : Arch), (∀ inp ∈ cycles, inp.rst = false) →
    (portRun cycles { arch := c, phase := .ready }).final.arch =
        (performAll (portRun cycles { arch := c, phase := .ready }).requests c).1 ∧
      (portRun cycles { arch := c, phase := .ready }).responses ++
          (portRun cycles { arch := c, phase := .ready }).final.phase.inFlight =
        (performAll (portRun cycles { arch := c, phase := .ready }).requests c).2

/-- The port is the model's where R55 is silent (notes/assumptions/5.md). R55, R160, R162: while rst is asserted nothing is accepted and no response given, and CORE leaves the cycle reset with
nothing in flight; with a transaction in flight no request is accepted. -/
def Obligations.PortResetAndOneInFlight : Prop :=
  ∀ (inp : PortIn) (p : PortState),
    (inp.rst = true → accepted inp p = [] ∧ delivered inp p = [] ∧
      portClock inp p = { arch := Arch.reset, phase := .ready }) ∧
    (∀ answer left, p.phase = .waiting answer left → accepted inp p = [] ∧ (portOut inp p).reqReady = false)

/-- R55, R171: an accepted request is answered after its latency, whatever requests the host offers meanwhile and whenever it
is ready for the response: the response is offered in the cycle that many cycles after the acceptance, at the earliest the
next, and in none before it. How the cycles are counted is the model's choice (notes/assumptions/5.md). -/
def Obligations.ResponseComesAfterItsLatency : Prop :=
  ∀ (c : Arch) (accepting now : PortIn) (r : Request) (meanwhile : List PortIn),
    accepting.rst = false → accepting.req = some r → now.rst = false → (∀ inp ∈ meanwhile, inp.rst = false) →
    meanwhile.length ≤ latency r - 1 →
    portOut now (portRun (accepting :: meanwhile) { arch := c, phase := .ready }).final =
      { reqReady := false, rsp := if meanwhile.length = latency r - 1 then some (perform r c).2 else none }
end

