-- ==== Sys2Proof/Laws/State.lean ====
section
/-! SUPPORT. One lemma per field per update of the state, each true by rfl, so that no proof unfolds a record update. -/

namespace Sys2Proof.Machine

@[simp] theorem Arch.withB_b (c : Arch) (f : TapFile) : (c.withB f).b = f := rfl
@[simp] theorem Arch.withB_a (c : Arch) (f : TapFile) : (c.withB f).a = c.a := rfl
@[simp] theorem Arch.withB_numIn (c : Arch) (f : TapFile) : (c.withB f).numIn = c.numIn := rfl
@[simp] theorem Arch.withB_numOut (c : Arch) (f : TapFile) : (c.withB f).numOut = c.numOut := rfl
@[simp] theorem Arch.withB_configured (c : Arch) (f : TapFile) : (c.withB f).configured = c.configured := rfl
@[simp] theorem Arch.withB_lastErr (c : Arch) (f : TapFile) : (c.withB f).lastErr = c.lastErr := rfl
@[simp] theorem Arch.withB_xh (c : Arch) (f : TapFile) : (c.withB f).xh = c.xh := rfl
@[simp] theorem Arch.withB_yh (c : Arch) (f : TapFile) : (c.withB f).yh = c.yh := rfl

@[simp] theorem Arch.withA_b (c : Arch) (f : TapFile) : (c.withA f).b = c.b := rfl
@[simp] theorem Arch.withA_a (c : Arch) (f : TapFile) : (c.withA f).a = f := rfl
@[simp] theorem Arch.withA_numIn (c : Arch) (f : TapFile) : (c.withA f).numIn = c.numIn := rfl
@[simp] theorem Arch.withA_numOut (c : Arch) (f : TapFile) : (c.withA f).numOut = c.numOut := rfl
@[simp] theorem Arch.withA_configured (c : Arch) (f : TapFile) : (c.withA f).configured = c.configured := rfl
@[simp] theorem Arch.withA_lastErr (c : Arch) (f : TapFile) : (c.withA f).lastErr = c.lastErr := rfl
@[simp] theorem Arch.withA_xh (c : Arch) (f : TapFile) : (c.withA f).xh = c.xh := rfl
@[simp] theorem Arch.withA_yh (c : Arch) (f : TapFile) : (c.withA f).yh = c.yh := rfl

@[simp] theorem Arch.withCfg_b (c : Arch) (m k : Byte) : (c.withCfg m k).b = c.b := rfl
@[simp] theorem Arch.withCfg_a (c : Arch) (m k : Byte) : (c.withCfg m k).a = c.a := rfl
@[simp] theorem Arch.withCfg_numIn (c : Arch) (m k : Byte) : (c.withCfg m k).numIn = m := rfl
@[simp] theorem Arch.withCfg_numOut (c : Arch) (m k : Byte) : (c.withCfg m k).numOut = k := rfl
@[simp] theorem Arch.withCfg_configured (c : Arch) (m k : Byte) : (c.withCfg m k).configured = c.configured := rfl
@[simp] theorem Arch.withCfg_lastErr (c : Arch) (m k : Byte) : (c.withCfg m k).lastErr = c.lastErr := rfl
@[simp] theorem Arch.withCfg_xh (c : Arch) (m k : Byte) : (c.withCfg m k).xh = c.xh := rfl
@[simp] theorem Arch.withCfg_yh (c : Arch) (m k : Byte) : (c.withCfg m k).yh = c.yh := rfl

@[simp] theorem Arch.withConfigured_b (c : Arch) (x : Bool) : (c.withConfigured x).b = c.b := rfl
@[simp] theorem Arch.withConfigured_a (c : Arch) (x : Bool) : (c.withConfigured x).a = c.a := rfl
@[simp] theorem Arch.withConfigured_numIn (c : Arch) (x : Bool) : (c.withConfigured x).numIn = c.numIn := rfl
@[simp] theorem Arch.withConfigured_numOut (c : Arch) (x : Bool) : (c.withConfigured x).numOut = c.numOut := rfl
@[simp] theorem Arch.withConfigured_configured (c : Arch) (x : Bool) : (c.withConfigured x).configured = x := rfl
@[simp] theorem Arch.withConfigured_lastErr (c : Arch) (x : Bool) : (c.withConfigured x).lastErr = c.lastErr := rfl
@[simp] theorem Arch.withConfigured_xh (c : Arch) (x : Bool) : (c.withConfigured x).xh = c.xh := rfl
@[simp] theorem Arch.withConfigured_yh (c : Arch) (x : Bool) : (c.withConfigured x).yh = c.yh := rfl

@[simp] theorem Arch.withLastErr_b (c : Arch) (e : Byte) : (c.withLastErr e).b = c.b := rfl
@[simp] theorem Arch.withLastErr_a (c : Arch) (e : Byte) : (c.withLastErr e).a = c.a := rfl
@[simp] theorem Arch.withLastErr_numIn (c : Arch) (e : Byte) : (c.withLastErr e).numIn = c.numIn := rfl
@[simp] theorem Arch.withLastErr_numOut (c : Arch) (e : Byte) : (c.withLastErr e).numOut = c.numOut := rfl
@[simp] theorem Arch.withLastErr_configured (c : Arch) (e : Byte) : (c.withLastErr e).configured = c.configured := rfl
@[simp] theorem Arch.withLastErr_lastErr (c : Arch) (e : Byte) : (c.withLastErr e).lastErr = e := rfl
@[simp] theorem Arch.withLastErr_xh (c : Arch) (e : Byte) : (c.withLastErr e).xh = c.xh := rfl
@[simp] theorem Arch.withLastErr_yh (c : Arch) (e : Byte) : (c.withLastErr e).yh = c.yh := rfl

@[simp] theorem Arch.withHistories_b (c : Arch) (x y : TapFile) : (c.withHistories x y).b = c.b := rfl
@[simp] theorem Arch.withHistories_a (c : Arch) (x y : TapFile) : (c.withHistories x y).a = c.a := rfl
@[simp] theorem Arch.withHistories_numIn (c : Arch) (x y : TapFile) : (c.withHistories x y).numIn = c.numIn := rfl
@[simp] theorem Arch.withHistories_numOut (c : Arch) (x y : TapFile) : (c.withHistories x y).numOut = c.numOut := rfl
@[simp] theorem Arch.withHistories_configured (c : Arch) (x y : TapFile) : (c.withHistories x y).configured = c.configured := rfl
@[simp] theorem Arch.withHistories_lastErr (c : Arch) (x y : TapFile) : (c.withHistories x y).lastErr = c.lastErr := rfl
@[simp] theorem Arch.withHistories_xh (c : Arch) (x y : TapFile) : (c.withHistories x y).xh = x := rfl
@[simp] theorem Arch.withHistories_yh (c : Arch) (x y : TapFile) : (c.withHistories x y).yh = y := rfl

@[simp] theorem Arch.reset_b : Arch.reset.b = zeroFile := rfl
@[simp] theorem Arch.reset_a : Arch.reset.a = zeroFile := rfl
@[simp] theorem Arch.reset_numIn : Arch.reset.numIn = 0x00#8 := rfl
@[simp] theorem Arch.reset_numOut : Arch.reset.numOut = 0x00#8 := rfl
@[simp] theorem Arch.reset_configured : Arch.reset.configured = false := rfl
@[simp] theorem Arch.reset_lastErr : Arch.reset.lastErr = 0x00#8 := rfl
@[simp] theorem Arch.reset_xh : Arch.reset.xh = zeroFile := rfl
@[simp] theorem Arch.reset_yh : Arch.reset.yh = zeroFile := rfl

@[simp] theorem State.complete_arch (s : State) (c : Arch) (r : Response) : (s.complete c r).arch = c := rfl
@[simp] theorem State.complete_pending (s : State) (c : Arch) (r : Response) : (s.complete c r).pending = s.pending := rfl
@[simp] theorem State.complete_rsp (s : State) (c : Arch) (r : Response) : (s.complete c r).rsp = some r := rfl

@[simp] theorem State.withPending_arch (s : State) (p : List HostInput) : (s.withPending p).arch = s.arch := rfl
@[simp] theorem State.withPending_pending (s : State) (p : List HostInput) : (s.withPending p).pending = p := rfl
@[simp] theorem State.withPending_rsp (s : State) (p : List HostInput) : (s.withPending p).rsp = s.rsp := rfl

@[simp] theorem State.reinit_arch (s : State) : (s.reinit).arch = Arch.reset := rfl
@[simp] theorem State.reinit_pending (s : State) : (s.reinit).pending = s.pending := rfl
@[simp] theorem State.reinit_rsp (s : State) : (s.reinit).rsp = none := rfl

@[simp] theorem State.reset_arch : State.reset.arch = Arch.reset := rfl
@[simp] theorem State.reset_pending : State.reset.pending = [] := rfl
@[simp] theorem State.reset_rsp : State.reset.rsp = none := rfl

/-- Two states of CORE are equal when every element of R20's tuple is. -/
theorem Arch.eq_of_fields {c d : Arch} (hb : c.b = d.b) (ha : c.a = d.a) (hm : c.numIn = d.numIn)
    (hk : c.numOut = d.numOut) (hc : c.configured = d.configured) (he : c.lastErr = d.lastErr)
    (hx : c.xh = d.xh) (hy : c.yh = d.yh) : c = d := by
  cases c; cases d; simp_all

/-- Two machines are equal when CORE and both parts of the port are. -/
theorem State.eq_of_fields {s t : State} (ha : s.arch = t.arch) (hp : s.pending = t.pending)
    (hr : s.rsp = t.rsp) : s = t := by
  cases s; cases t; simp_all

end Sys2Proof.Machine
end

