-- ==== Sys2Proof/Laws/Ops.lean ====
section
/-! SUPPORT. What each shared operation does, said once: the meanings' proofs cite these and unfold none of them. -/

namespace Sys2Proof.Machine

/-- Error entry changes LAST_ERR alone and answers ERR with RDATA = 0. -/
theorem raiseErr_spec {e : ErrCode} {s t : State} (h : raiseErr e s = .next t) :
    t.arch = s.arch.withLastErr (errByte e) ∧ t.rsp = some ⟨true, 0#64⟩ ∧ t.pending = s.pending := by
  obtain rfl : s.complete (s.arch.withLastErr (errByte e)) ⟨true, 0#64⟩ = t := by simpa [raiseErr] using h
  simp

/-- A read that succeeds changes nothing of CORE and answers OKAY with its word. -/
theorem respondData_spec {v : Word} {s t : State} (h : respondData v s = .next t) :
    t.arch = s.arch ∧ t.rsp = some ⟨false, v⟩ ∧ t.pending = s.pending := by
  obtain rfl : s.complete s.arch ⟨false, v⟩ = t := by simpa [respondData] using h
  simp

/-- A write that succeeds leaves CORE in the state given and answers OKAY with RDATA = 0. -/
theorem respondDone_spec {c : Arch} {s t : State} (h : respondDone c s = .next t) :
    t.arch = c ∧ t.rsp = some ⟨false, 0#64⟩ ∧ t.pending = s.pending := by
  obtain rfl : s.complete c ⟨false, 0#64⟩ = t := by simpa [respondDone] using h
  simp

theorem respondUnlocked_of_locked {c : Arch} {s : State} (h : s.arch.configured = true) :
    respondUnlocked c s = raiseErr .locked s := by simp [respondUnlocked, h]

theorem respondUnlocked_of_open {c : Arch} {s : State} (h : s.arch.configured = false) :
    respondUnlocked c s = respondDone c s := by simp [respondUnlocked, h]

theorem tapEntry_of_lt {i : TapIndex} (h : i.toNat < 20) : tapEntry i = some ⟨i.toNat, h⟩ := by
  simp [tapEntry, h]

theorem tapEntry_of_ge {i : TapIndex} (h : 20 ≤ i.toNat) : tapEntry i = none := by
  simp [tapEntry, Nat.not_lt.mpr h]

theorem readEntry_of_lt {f : TapFile} {i : TapIndex} {s : State} (h : i.toNat < 20) :
    readEntry f i s = respondData f[i.toNat] s := by
  simp [readEntry, tapEntry_of_lt h]

theorem readEntry_of_ge {f : TapFile} {i : TapIndex} {s : State} (h : 20 ≤ i.toNat) :
    readEntry f i s = raiseErr .badAddress s := by
  simp [readEntry, tapEntry_of_ge h]

theorem tap_of_lt {f : TapFile} {t : Nat} (h : t < 20) : tap f t = f[t] := by
  simp [tap, h]

theorem tap_of_ge {f : TapFile} {t : Nat} (h : 20 ≤ t) : tap f t = posZero := by
  simp [tap, h]

@[simp] theorem tap_zeroFile (t : Nat) : tap zeroFile t = posZero := by
  by_cases h : t < 20
  · simp [tap_of_lt h]
  · exact tap_of_ge (Nat.not_lt.mp h)

/-- Entry 0 takes the new word. -/
@[simp] theorem shiftIn_zero (x : Word) (f : TapFile) : (shiftIn x f)[0] = x := by
  simp [shiftIn]

/-- Entry i + 1 takes the old entry i. -/
theorem shiftIn_succ (x : Word) (f : TapFile) {i : Nat} (h : i + 1 < 20) : (shiftIn x f)[i + 1] = f[i] := by
  simp [shiftIn]

theorem tap_shiftIn_zero (x : Word) (f : TapFile) : tap (shiftIn x f) 0 = x := by
  rw [tap_of_lt (by decide), shiftIn_zero]

theorem tap_shiftIn_succ (x : Word) (f : TapFile) {i : Nat} (h : i + 1 < 20) :
    tap (shiftIn x f) (i + 1) = tap f i := by
  rw [tap_of_lt h, tap_of_lt (Nat.lt_of_succ_lt h), shiftIn_succ x f h]

end Sys2Proof.Machine
end

