-- ==== Sys2Proof/Laws/FilterStep.lean ====
section
/-! SUPPORT. The fold `dot` term by term, and the fields of a filter step. -/

namespace Sys2Proof.Machine

@[simp] theorem dot_zero (w h : TapFile) (lo : Nat) : dot w h lo 0 = posZero := by simp [dot]

/-- One more term is added last. -/
theorem dot_succ (w h : TapFile) (lo n : Nat) :
    dot w h lo (n + 1) = fadd (dot w h lo n) (fmul (tap w (lo + n)) (tap h n)) := by
  unfold dot
  rw [List.range'_concat, List.foldl_append, List.foldl_cons, List.foldl_nil, Nat.one_mul,
    Nat.add_sub_cancel_left]

/-- `dot` reads its files only at the entries of its terms. -/
theorem dot_congr {w w' h h' : TapFile} {lo n : Nat} (hw : ∀ t, lo ≤ t → t < lo + n → tap w t = tap w' t)
    (hh : ∀ t, t < n → tap h t = tap h' t) : dot w h lo n = dot w' h' lo n := by
  induction n with
  | zero => rw [dot_zero, dot_zero]
  | succ n ih =>
    rw [dot_succ, dot_succ, hw (lo + n) (by omega) (by omega), hh n (by omega),
      ih (fun t h1 h2 => hw t h1 (by omega)) (fun t h1 => hh t (by omega))]

@[simp] theorem filterEval_b (x : Word) (c : Arch) : (filterEval x c).b = c.b := by
  simp only [filterEval, Arch.withHistories_b]

@[simp] theorem filterEval_a (x : Word) (c : Arch) : (filterEval x c).a = c.a := by
  simp only [filterEval, Arch.withHistories_a]

@[simp] theorem filterEval_numIn (x : Word) (c : Arch) : (filterEval x c).numIn = c.numIn := by
  simp only [filterEval, Arch.withHistories_numIn]

@[simp] theorem filterEval_numOut (x : Word) (c : Arch) : (filterEval x c).numOut = c.numOut := by
  simp only [filterEval, Arch.withHistories_numOut]

@[simp] theorem filterEval_configured (x : Word) (c : Arch) : (filterEval x c).configured = c.configured := by
  simp only [filterEval, Arch.withHistories_configured]

@[simp] theorem filterEval_lastErr (x : Word) (c : Arch) : (filterEval x c).lastErr = c.lastErr := by
  simp only [filterEval, Arch.withHistories_lastErr]

@[simp] theorem filterEval_xh (x : Word) (c : Arch) : (filterEval x c).xh = shiftIn x c.xh := by
  simp only [filterEval, Arch.withHistories_xh]

@[simp] theorem filterEval_yh (x : Word) (c : Arch) :
    (filterEval x c).yh = shiftIn (filterOutput x c) c.yh := by
  simp only [filterEval, Arch.withHistories_yh]

end Sys2Proof.Machine
end

