-- ==== Sys2Proof/Laws/Step.lean ====
section
/-! SUPPORT. What an operation, a transaction and a step can do, said once. -/

namespace Sys2Proof.Machine

/-- Completing a transaction twice leaves the second completion. -/
@[simp] theorem State.complete_complete (s : State) (c d : Arch) (r q : Response) :
    (s.complete c r).complete d q = s.complete d q := rfl

/-- On every machine whose CORE is in state `c`, `f` completes a transaction in one and the same way. -/
def Completes (c : Arch) (f : State → Result) : Prop :=
  ∃ d r, ∀ s : State, s.arch = c → f s = .next (s.complete d r)

theorem completes_raiseErr (c : Arch) (e : ErrCode) : Completes c (raiseErr e) :=
  ⟨c.withLastErr (errByte e), ⟨true, 0#64⟩, fun s h => by rw [raiseErr, h]⟩

theorem completes_respondData (c : Arch) (v : Arch → Word) : Completes c fun s => respondData (v s.arch) s :=
  ⟨c, ⟨false, v c⟩, fun s h => by simp [respondData, h]⟩

theorem completes_respondDone (c : Arch) (d : Arch → Arch) : Completes c fun s => respondDone (d s.arch) s :=
  ⟨d c, ⟨false, 0#64⟩, fun s h => by simp [respondDone, h]⟩

/-- `Completes` looks at `f` only where CORE is in state `c`. -/
theorem Completes.congr {c : Arch} {f g : State → Result} (h : Completes c f) (e : ∀ s, s.arch = c → g s = f s) :
    Completes c g := by
  obtain ⟨d, r, h⟩ := h
  exact ⟨d, r, fun s hs => (e s hs).trans (h s hs)⟩

theorem completes_respondUnlocked (c : Arch) (d : Arch → Arch) :
    Completes c fun s => respondUnlocked (d s.arch) s := by
  cases hc : c.configured with
  | true => exact (completes_raiseErr c .locked).congr fun s h => respondUnlocked_of_locked (h ▸ hc)
  | false => exact (completes_respondDone c d).congr fun s h => respondUnlocked_of_open (h ▸ hc)

theorem completes_readEntry (c : Arch) (file : Arch → TapFile) (i : TapIndex) :
    Completes c fun s => readEntry (file s.arch) i s := by
  by_cases hi : i.toNat < 20
  · exact (completes_respondData c fun c => (file c)[i.toNat]).congr fun s _ => readEntry_of_lt hi
  · exact (completes_raiseErr c .badAddress).congr fun s _ => readEntry_of_ge (Nat.not_lt.mp hi)

theorem completes_execWrB (c : Arch) (i : TapIndex) (w : Word) : Completes c (execWrB i w) := by
  by_cases hi : i.toNat < 20
  · exact (completes_respondUnlocked c fun c => c.withB (c.b.set i.toNat w)).congr fun s _ => by
      simp [execWrB, tapEntry_of_lt hi]
  · exact (completes_raiseErr c .badAddress).congr fun s _ => by
      simp [execWrB, tapEntry_of_ge (Nat.not_lt.mp hi)]

theorem completes_execWrA (c : Arch) (i : TapIndex) (w : Word) : Completes c (execWrA i w) := by
  by_cases hi : i.toNat < 20
  · exact (completes_respondUnlocked c fun c => c.withA (c.a.set i.toNat w)).congr fun s _ => by
      simp [execWrA, tapEntry_of_lt hi]
  · exact (completes_raiseErr c .badAddress).congr fun s _ => by
      simp [execWrA, tapEntry_of_ge (Nat.not_lt.mp hi)]

theorem completes_execConfigure (c : Arch) : Completes c execConfigure := by
  cases hc : c.configured with
  | true =>
    exact (completes_raiseErr c .locked).congr fun s h => by simp [execConfigure, h, hc]
  | false =>
    cases hk : cfgCheck c.numIn c.numOut c.a[0] with
    | some e => exact (completes_raiseErr c e).congr fun s h => by simp [execConfigure, h, hc, hk]
    | none =>
      exact (completes_respondDone c fun c => (c.withHistories zeroFile zeroFile).withConfigured true).congr
        fun s h => by simp [execConfigure, h, hc, hk]

theorem completes_execFilter (c : Arch) (x : Word) : Completes c (execFilter x) := by
  cases hc : c.configured with
  | true => exact (completes_respondDone c (filterEval x)).congr fun s h => by simp [execFilter, h, hc]
  | false => exact (completes_raiseErr c .notConfigured).congr fun s h => by simp [execFilter, h, hc]

/-- Every operation completes, and what it does to CORE and answers depends on CORE's state alone. -/
theorem completes_exec (i : Instr) (c : Arch) : Completes c (exec i) := by
  cases i with
  | rdCaps => exact completes_respondData c fun _ => capsWord
  | rdCfg => exact completes_respondData c cfgWord
  | wrCfg w => exact completes_respondUnlocked c fun c => c.withCfg (wdataNumIn w) (wdataNumOut w)
  | rdStatus => exact completes_respondData c statusWord
  | configure => exact completes_execConfigure c
  | release => exact completes_respondDone c released
  | clearErr => exact completes_respondDone c fun c => c.withLastErr errNone
  | filter x => exact completes_execFilter c x
  | rdYOut => exact completes_respondData c fun c => c.yh[0]
  | rdB i => exact completes_readEntry c Arch.b i
  | wrB i w => exact completes_execWrB c i w
  | rdA i => exact completes_readEntry c Arch.a i
  | wrA i w => exact completes_execWrA c i w
  | rdXh i => exact completes_readEntry c Arch.xh i
  | rdYh i => exact completes_readEntry c Arch.yh i

theorem completes_transact (r : Request) (c : Arch) : Completes c (transact r) := by
  cases hd : decodeRequest r with
  | error e => exact (completes_raiseErr c e).congr fun s _ => by simp [transact, hd]
  | ok i => exact (completes_exec i c).congr fun s _ => by simp [transact, hd]

/-- Every transaction completes with the state and the response that `perform` gives, whatever the port holds. -/
theorem transact_eq_perform (r : Request) (s : State) :
    transact r s = .next (s.complete (perform r s.arch).1 (perform r s.arch).2) := by
  obtain ⟨d, q, h⟩ := completes_transact r s.arch
  have hp : perform r s.arch = (d, q) := by simp [perform, h (idleAt s.arch) rfl]
  rw [hp, h s rfl]

/-- What an operation does to CORE, from what exec answers on any state. -/
theorem perform_of_exec {r : Request} {i : Instr} {c d : Arch} {q : Response} (hd : decodeRequest r = .ok i)
    (h : exec i (idleAt c) = .next ((idleAt c).complete d q)) : perform r c = (d, q) := by
  simp [perform, transact, hd, h]

theorem step_idle {s : State} (h : s.pending = []) : step s = .next s := by
  simp [step, serveNext, takeEvent, h]

theorem step_request {s : State} {r : Request} {rest : List HostInput} (h : s.pending = .request r :: rest) :
    step s = transact r (s.withPending rest) := by
  simp [step, serveNext, takeEvent, h, serve]

theorem step_reset {s : State} {rest : List HostInput} (h : s.pending = .reset :: rest) :
    step s = .next (s.withPending rest).reinit := by
  simp [step, serveNext, takeEvent, h, serve]

theorem step_resetDuring {s : State} {r : Request} {rest : List HostInput}
    (h : s.pending = .resetDuring r :: rest) : step s = .next (s.withPending rest).reinit := by
  simp [step, serveNext, takeEvent, h, serve]

end Sys2Proof.Machine
end

