-- ==== Sys2Proof/Laws/Effects.lean ====
section
/-! SUPPORT. The cases of an operation's effect, said once: proofs about every operation, transaction or step split on these
instead of unfolding the meanings. -/

namespace Sys2Proof.Machine

/-- The operations that only read a register. -/
def readOnlyOp : Instr → Bool
  | .rdCaps => true
  | .rdCfg => true
  | .rdStatus => true
  | .rdYOut => true
  | .rdB _ => true
  | .rdA _ => true
  | .rdXh _ => true
  | .rdYh _ => true
  | .wrCfg _ => false
  | .wrB _ _ => false
  | .wrA _ _ => false
  | .configure => false
  | .release => false
  | .clearErr => false
  | .filter _ => false

/-- `Effect i c d q`: on CORE in state `c` the operation `i` may leave state `d` and answer `q`. -/
inductive Effect (i : Instr) (c : Arch) : Arch → Response → Prop where
  | rejected (e : ErrCode) : Effect i c (c.withLastErr (errByte e)) ⟨true, 0#64⟩
  | read (v : Word) (hi : readOnlyOp i = true) : Effect i c c ⟨false, v⟩
  | counts (w : Word) (hi : i = .wrCfg w) (hc : c.configured = false) :
      Effect i c (c.withCfg (wdataNumIn w) (wdataNumOut w)) ⟨false, 0#64⟩
  | weightB (n : TapIndex) (w : Word) (hn : n.toNat < 20) (hi : i = .wrB n w) (hc : c.configured = false) :
      Effect i c (c.withB (c.b.set n.toNat w)) ⟨false, 0#64⟩
  | weightA (n : TapIndex) (w : Word) (hn : n.toNat < 20) (hi : i = .wrA n w) (hc : c.configured = false) :
      Effect i c (c.withA (c.a.set n.toNat w)) ⟨false, 0#64⟩
  | configured (hi : i = .configure) (hc : c.configured = false)
      (hk : cfgCheck c.numIn c.numOut c.a[0] = none) :
      Effect i c ((c.withHistories zeroFile zeroFile).withConfigured true) ⟨false, 0#64⟩
  | released (hi : i = .release) : Effect i c (released c) ⟨false, 0#64⟩
  | cleared (hi : i = .clearErr) : Effect i c (c.withLastErr errNone) ⟨false, 0#64⟩
  | filtered (x : Word) (hi : i = .filter x) (hc : c.configured = true) :
      Effect i c (filterEval x c) ⟨false, 0#64⟩

theorem effect_readEntry {i : Instr} (hi : readOnlyOp i = true) (f : TapFile) (n : TapIndex) (s : State) :
    ∃ d q, readEntry f n s = .next (s.complete d q) ∧ Effect i s.arch d q := by
  by_cases hn : n.toNat < 20
  · exact ⟨_, _, readEntry_of_lt hn, .read _ hi⟩
  · exact ⟨_, _, readEntry_of_ge (Nat.not_lt.mp hn), .rejected _⟩

theorem effect_respondUnlocked {i : Instr} {s : State} {c : Arch}
    (h : s.arch.configured = false → Effect i s.arch c ⟨false, 0#64⟩) :
    ∃ d q, respondUnlocked c s = .next (s.complete d q) ∧ Effect i s.arch d q := by
  cases hc : s.arch.configured with
  | true => exact ⟨_, _, respondUnlocked_of_locked hc, .rejected _⟩
  | false => exact ⟨_, _, respondUnlocked_of_open hc, h hc⟩

/-- Every operation completes with one of the effects. -/
theorem exec_effect (i : Instr) (s : State) :
    ∃ d q, exec i s = .next (s.complete d q) ∧ Effect i s.arch d q := by
  cases i with
  | rdCaps => exact ⟨_, _, rfl, .read _ rfl⟩
  | rdCfg => exact ⟨_, _, rfl, .read _ rfl⟩
  | rdStatus => exact ⟨_, _, rfl, .read _ rfl⟩
  | rdYOut => exact ⟨_, _, rfl, .read _ rfl⟩
  | rdB n => exact effect_readEntry rfl s.arch.b n s
  | rdA n => exact effect_readEntry rfl s.arch.a n s
  | rdXh n => exact effect_readEntry rfl s.arch.xh n s
  | rdYh n => exact effect_readEntry rfl s.arch.yh n s
  | wrCfg w => exact effect_respondUnlocked (.counts w rfl)
  | release => exact ⟨_, _, rfl, .released rfl⟩
  | clearErr => exact ⟨_, _, rfl, .cleared rfl⟩
  | wrB n w =>
    by_cases hn : n.toNat < 20
    · simpa only [exec, execWrB, tapEntry_of_lt hn] using effect_respondUnlocked (.weightB n w hn rfl)
    · exact ⟨_, _, by simp only [exec, execWrB, tapEntry_of_ge (Nat.not_lt.mp hn)]; rfl, .rejected .badAddress⟩
  | wrA n w =>
    by_cases hn : n.toNat < 20
    · simpa only [exec, execWrA, tapEntry_of_lt hn] using effect_respondUnlocked (.weightA n w hn rfl)
    · exact ⟨_, _, by simp only [exec, execWrA, tapEntry_of_ge (Nat.not_lt.mp hn)]; rfl, .rejected .badAddress⟩
  | configure =>
    cases hc : s.arch.configured with
    | true => exact ⟨_, _, by simp [exec, execConfigure, hc, raiseErr], .rejected .locked⟩
    | false =>
      cases hk : cfgCheck s.arch.numIn s.arch.numOut s.arch.a[0] with
      | some e => exact ⟨_, _, by simp [exec, execConfigure, hc, hk, raiseErr], .rejected e⟩
      | none => exact ⟨_, _, by simp [exec, execConfigure, hc, hk, respondDone], .configured rfl hc hk⟩
  | filter x =>
    cases hc : s.arch.configured with
    | true => exact ⟨_, _, by simp [exec, execFilter, hc, respondDone], .filtered x rfl hc⟩
    | false => exact ⟨_, _, by simp [exec, execFilter, hc, raiseErr], .rejected .notConfigured⟩

/-- A transaction is rejected by the decoder, or has one of the effects of the operation decoded. -/
theorem perform_effect (r : Request) (c : Arch) :
    (∃ e, decodeRequest r = .error e ∧ perform r c = (c.withLastErr (errByte e), ⟨true, 0#64⟩)) ∨
      ∃ i, decodeRequest r = .ok i ∧ Effect i c (perform r c).1 (perform r c).2 := by
  cases hd : decodeRequest r with
  | error e => exact .inl ⟨e, rfl, by simp [perform, transact, hd, raiseErr, idleAt]⟩
  | ok i =>
    obtain ⟨d, q, h, he⟩ := exec_effect i (idleAt c)
    exact .inr ⟨i, rfl, by rw [perform_of_exec hd h]; exact he⟩

/-- What a step that takes a request leaves. -/
theorem step_request_next {s t : State} {r : Request} {rest : List HostInput}
    (h : s.pending = .request r :: rest) (hs : step s = .next t) :
    t.arch = (perform r s.arch).1 ∧ t.rsp = some (perform r s.arch).2 ∧ t.pending = rest := by
  rw [step_request h, transact_eq_perform] at hs
  obtain rfl := Host.Outcome.next.inj hs
  exact ⟨rfl, rfl, rfl⟩

/-- What CONFIGURE has checked when it succeeds. -/
theorem legal_of_cfgCheck {m k : Byte} {a0 : Word} (h : cfgCheck m k a0 = none) :
    1 ≤ m.toNat ∧ m.toNat ≤ 20 ∧ k.toNat ≤ 20 ∧ feq0 a0 = false := by
  have h20 : Config.maxTaps = 20 := rfl
  unfold cfgCheck at h
  split at h
  · exact absurd h (by simp)
  · split at h
    · exact absurd h (by simp)
    · split at h
      · exact absurd h (by simp)
      · refine ⟨by omega, by omega, by omega, by simpa using h⟩

end Sys2Proof.Machine
end

