-- ==== Sys2Proof/Laws/Float.lean ====
section
/-! SUPPORT. The fields of packed words, the bounds of the binary64 fields and of the rounded magnitude. -/

namespace Sys2Proof.Machine

theorem expField_lt (w : Word) : expField w < 2 ^ 11 := (w.extractLsb' 52 11).isLt

theorem fracField_lt (w : Word) : fracField w < 2 ^ 52 := (w.extractLsb' 0 52).isLt

theorem signBit_eq (w : Word) : signBit w = decide (2 ^ 63 ≤ w.toNat) := by
  have hw := w.isLt
  rw [signBit, BitVec.getLsbD, Nat.testBit_eq_decide_div_mod_eq, decide_eq_decide]
  omega

/-- A word's number is its sign, exponent and fraction put together. -/
theorem toNat_eq_fields (w : Word) :
    w.toNat = (if signBit w then 2 ^ 63 else 0) + expField w * 2 ^ 52 + fracField w := by
  have hw := w.isLt
  simp only [signBit_eq, expField, fracField, BitVec.extractLsb'_toNat, Nat.shiftRight_eq_div_pow,
    decide_eq_true_eq]
  split <;> omega

/-- The rounded magnitude never passes an infinity's. -/
theorem roundMag_le_infMag (n d : Nat) : roundMag n d ≤ infMag := by
  unfold roundMag
  exact Nat.min_le_right _ _

@[simp] theorem roundMag_zero (d : Nat) : roundMag 0 d = 0 := by
  simp [roundMag, spacing]

theorem toNat_packWord (neg : Bool) {m : Nat} (h : m < 2 ^ 63) :
    (packWord neg m).toNat = (if neg then 2 ^ 63 else 0) + m := by
  rw [packWord, BitVec.toNat_append, BitVec.toNat_ofNat, Nat.mod_eq_of_lt h,
    ← Nat.shiftLeft_add_eq_or_of_lt h]
  cases neg <;> simp [Nat.shiftLeft_eq]

theorem signBit_packWord (neg : Bool) {m : Nat} (h : m < 2 ^ 63) : signBit (packWord neg m) = neg := by
  rw [signBit_eq, toNat_packWord neg h]
  cases neg
  · simpa using h
  · simp

theorem expField_packWord (neg : Bool) {m : Nat} (h : m < 2 ^ 63) : expField (packWord neg m) = m / 2 ^ 52 := by
  have hn := toNat_packWord neg h
  simp only [expField, BitVec.extractLsb'_toNat, Nat.shiftRight_eq_div_pow, hn]
  split <;> omega

theorem fracField_packWord (neg : Bool) {m : Nat} (h : m < 2 ^ 63) : fracField (packWord neg m) = m % 2 ^ 52 := by
  have hn := toNat_packWord neg h
  simp only [fracField, BitVec.extractLsb'_toNat, Nat.shiftRight_eq_div_pow, hn]
  split <;> omega

@[simp] theorem signBit_negate (q : Word) : signBit (negate q) = !signBit q :=
  signBit_packWord _ (Nat.mod_lt _ (by decide))

@[simp] theorem expField_negate (q : Word) : expField (negate q) = expField q := by
  rw [negate, expField_packWord _ (Nat.mod_lt _ (by decide)), expField, BitVec.extractLsb'_toNat,
    Nat.shiftRight_eq_div_pow]
  omega

@[simp] theorem fracField_negate (q : Word) : fracField (negate q) = fracField q := by
  rw [negate, fracField_packWord _ (Nat.mod_lt _ (by decide)), fracField, BitVec.extractLsb'_toNat,
    Nat.shiftRight_eq_div_pow]
  omega

@[simp] theorem quanta_negate (q : Word) : quanta (negate q) = -quanta q := by
  have hm : magQuanta (negate q) = magQuanta q := by simp [magQuanta]
  cases hs : signBit q <;> simp [quanta, hm, hs]

/-- Every value of the NaN parameter is a NaN. -/
@[simp] theorem isNan_nanBits (v : NanWord) : isNan (nanBits v) = true := by
  have hv := v.fractionLessOne.isLt
  have hi : infMag = 0x7FF0000000000000 := rfl
  have h : infMag + 1 + v.fractionLessOne.val < 2 ^ 63 := by omega
  rw [isNan, nanBits, expField_packWord _ h, fracField_packWord _ h, Bool.and_eq_true, decide_eq_true_eq,
    decide_eq_true_eq]
  omega

@[simp] theorem isNan_nanResult (op : FpOp) (p q : Word) : isNan (nanResult op p q) = true := isNan_nanBits _

end Sys2Proof.Machine
end

