-- ==== Sys2Proof/Laws/Run.lean ====
section
/-! SUPPORT. Streams of transactions and of samples, one item at a time. -/

namespace Sys2Proof.Machine

theorem performAll_append (rs qs : List Request) (c : Arch) :
    performAll (rs ++ qs) c =
      ((performAll qs (performAll rs c).1).1, (performAll rs c).2 ++ (performAll qs (performAll rs c).1).2) := by
  induction rs generalizing c with
  | nil => simp [performAll]
  | cons r rs ih => simp [performAll, ih]

/-- FILTER on a configured instance. -/
theorem perform_filter {c : Arch} (x : Word) (hc : c.configured = true) :
    perform (encodeRequest (.filter x)) c = (filterEval x c, ⟨false, 0#64⟩) :=
  perform_of_exec (i := .filter x)
    (by simp [encodeRequest, decodeRequest, decodeReg, singleReg, Reg.writeOp])
    (by simp [exec, execFilter, idleAt, hc, respondDone])

/-- RD_Y_OUT. -/
theorem perform_rdYOut (c : Arch) : perform (encodeRequest .rdYOut) c = (c, ⟨false, c.yh[0]⟩) :=
  perform_of_exec (i := .rdYOut)
    (by simp [encodeRequest, decodeRequest, decodeReg, singleReg, Reg.readOp])
    (by simp [exec, execRdYOut, idleAt, respondData])

/-- One sample fed to a configured instance is one filter step, and its output is the word read. -/
theorem feed_cons {c : Arch} (x : Word) (xs : List Word) (hc : c.configured = true) :
    feed (x :: xs) c =
      ((feed xs (filterEval x c)).1, filterOutput x c :: (feed xs (filterEval x c)).2) := by
  simp only [feed, perform_filter x hc, perform_rdYOut, filterEval_yh, shiftIn_zero]

end Sys2Proof.Machine
end

