-- ==== Sys2Proof/Laws/Port.lean ====
section
/-! SUPPORT. What one cycle of the port can do, said once, from any port state. -/

namespace Sys2Proof.Machine

/-- Under reset nothing is accepted or delivered, and CORE leaves the cycle reset and ready. -/
theorem port_cycle_reset {inp : PortIn} (p : PortState) (h : inp.rst = true) :
    accepted inp p = [] ∧ delivered inp p = [] ∧ portClock inp p = { arch := Arch.reset, phase := .ready } := by
  simp [accepted, delivered, portOut, portClock, h]

/-- Without reset, a cycle performs the request it accepts, if any, and the responses delivered, with the one in flight after,
are the one in flight before and the accepted request's. -/
theorem port_cycle_performs {inp : PortIn} (p : PortState) (h : inp.rst = false) :
    (portClock inp p).arch = (performAll (accepted inp p) p.arch).1 ∧
      delivered inp p ++ (portClock inp p).phase.inFlight =
        p.phase.inFlight ++ (performAll (accepted inp p) p.arch).2 := by
  obtain ⟨c, phase⟩ := p
  cases phase with
  | ready => cases hr : inp.req <;> simp [portClock, portOut, accepted, delivered, PortPhase.inFlight, performAll, h, hr]
  | waiting answer left =>
    cases left <;> cases hr : inp.rspReady <;>
      simp [portClock, portOut, accepted, delivered, PortPhase.inFlight, performAll, h, hr]

/-- A response not yet due comes one cycle nearer, whatever the host does. -/
theorem portClock_waiting_succ {inp : PortIn} (c : Arch) (answer : Response) (left : Nat) (h : inp.rst = false) :
    portClock inp { arch := c, phase := .waiting answer (left + 1) } = { arch := c, phase := .waiting answer left } := by
  simp [portClock, h]

end Sys2Proof.Machine
end

