-- ==== Sys2Proof/Tests/Slice0.lean ====
section
/-! SUPPORT. Tests: words written out from the opcode table, one-step results from spec/95_test_vectors.md, and for every
statement with hypotheses a witness that meets them. -/

namespace Sys2Proof.Tests

set_option Elab.async false

open Sys2Proof Sys2Proof.Machine

/-- The next state, where there is one. -/
def nextOf (r : Result) : Option State :=
  match r with
  | .next t => some t
  | .fault _ => none
  | .refused _ => none

/-- CORE in state `c` with one request of header `h` and data `d` offered. -/
def offering (c : Arch) (h : Header) (d : Word) : State :=
  { arch := c, pending := [.request (Request.ofBits (h ++ d))], rsp := none }

/-- The response and CORE's state after one step. -/
def stepOn (c : Arch) (h : Header) (d : Word) : Option (Response × Arch) :=
  match nextOf (step (offering c h d)) with
  | some t => t.rsp.map fun q => (q, t.arch)
  | none => none

/-- The response of one step. -/
def answerOn (c : Arch) (h : Header) (d : Word) : Option (Bool × Word) :=
  (stepOn c h d).map fun p => (p.1.err, p.1.rdata)

/-- The decoder's answer as an option. -/
def decoded (v : BitVec 77) : Option Instr :=
  match decode v with
  | .ok i => some i
  | .error _ => none

/-- The decoder's error as an option. -/
def decodeError (w : Bool) (addr : Addr) : Option ErrCode :=
  match decodeRequest ⟨w, addr, 0#64⟩ with
  | .ok _ => none
  | .error e => some e

/-- Weights and counts as given, from reset; entry 0 of A is `a0`. -/
def weights (bs : List Word) (a0 : Word) (m k : Byte) (conf : Bool) : Arch :=
  { Arch.reset with
    b := Vector.ofFn fun i => bs[i.val]?.getD posZero
    a := zeroFile.set 0 a0
    numIn := m
    numOut := k
    configured := conf }

/-- The moving-average preset, configured (R111). -/
def ma : Arch := weights [third, third, third] one 3#8 1#8 true

/-- The same, not yet configured. -/
def maOpen : Arch := weights [third, third, third] one 3#8 1#8 false

/-- B = [1.0], A = [1.0], M = K = 1, configured. -/
def unit : Arch := weights [one] one 1#8 1#8 true

/-! Well-formedness: each indexed operation refuses a reserved index. -/

theorem test_wf_refuses_rdB : (Instr.rdB 20#5).wf = false := by decide +kernel
theorem test_wf_refuses_wrB : (Instr.wrB 20#5 one).wf = false := by decide +kernel
theorem test_wf_refuses_rdA : (Instr.rdA 31#5).wf = false := by decide +kernel
theorem test_wf_refuses_wrA : (Instr.wrA 24#5 one).wf = false := by decide +kernel
theorem test_wf_refuses_rdXh : (Instr.rdXh 20#5).wf = false := by decide +kernel
theorem test_wf_refuses_rdYh : (Instr.rdYh 20#5).wf = false := by decide +kernel
theorem test_wf_accepts_nineteen : (Instr.rdYh 19#5).wf = true := by decide +kernel

/-! Decoding: the encoding column of R68, bit by bit. -/

theorem test_decode_rdCaps : decoded (0b0000000000000#13 ++ 0#64) = some .rdCaps := by decide +kernel
theorem test_decode_rdCfg : decoded (0b0000000001000#13 ++ 0#64) = some .rdCfg := by decide +kernel
theorem test_decode_wrCfg : decoded (0b1000000001000#13 ++ 0x103#64) = some (.wrCfg 0x103#64) := by decide +kernel
theorem test_decode_rdStatus : decoded (0b0000000010000#13 ++ 0#64) = some .rdStatus := by decide +kernel
theorem test_decode_configure : decoded (0b1000000011000#13 ++ 7#64) = some .configure := by decide +kernel
theorem test_decode_release : decoded (0b1000000100000#13 ++ 7#64) = some .release := by decide +kernel
theorem test_decode_clearErr : decoded (0b1000000101000#13 ++ 7#64) = some .clearErr := by decide +kernel
theorem test_decode_filter : decoded (0b1000000110000#13 ++ one) = some (.filter one) := by decide +kernel
theorem test_decode_rdYOut : decoded (0b0000000111000#13 ++ 0#64) = some .rdYOut := by decide +kernel
theorem test_decode_rdB : decoded (0b0000110011000#13 ++ 0#64) = some (.rdB 19#5) := by decide +kernel
theorem test_decode_wrB : decoded (0b1000100010000#13 ++ one) = some (.wrB 2#5 one) := by decide +kernel
theorem test_decode_rdA : decoded (0b0001000001000#13 ++ 0#64) = some (.rdA 1#5) := by decide +kernel
theorem test_decode_wrA : decoded (0b1001000001000#13 ++ one) = some (.wrA 1#5 one) := by decide +kernel
theorem test_decode_rdXh : decoded (0b0001100101000#13 ++ 0#64) = some (.rdXh 5#5) := by decide +kernel
theorem test_decode_rdYh : decoded (0b0010010010000#13 ++ 0#64) = some (.rdYh 18#5) := by decide +kernel

/-- P1's first request word. -/
theorem test_decode_p1_word : decoded 0x011003FD555475A31A4BE#77 = some (.wrB 0#5 third) := by decide +kernel

/-- RA-9 to RA-15 and the edges of R48's ranges: BAD_ADDRESS. -/
theorem test_bad_addresses :
    [0x031#12, 0xFFF#12, 0x1A0#12, 0x1F8#12, 0x040#12, 0x0F8#12, 0x4F8#12, 0x500#12, 0xFF8#12].map (decodeError false) =
      List.replicate 9 (some .badAddress) := by decide +kernel

/-- RA-16 to RA-21: BAD_ACCESS by a read or a write. -/
theorem test_bad_accesses :
    [0x018#12, 0x020#12, 0x028#12, 0x030#12].map (decodeError false) = List.replicate 4 (some .badAccess) ∧
      [0x000#12, 0x010#12, 0x038#12, 0x300#12, 0x398#12, 0x400#12, 0x498#12].map (decodeError true) =
        List.replicate 7 (some .badAccess) := by decide +kernel

/-- No two rows of the opcode table match one header. -/
theorem test_rows_disjoint :
    opcodeTable.Pairwise (fun p q => p.pattern &&& (p.mask &&& q.mask) ≠ q.pattern &&& (p.mask &&& q.mask)) := by decide +kernel

theorem test_table_word : decodeTableWord 16 0x1198 = some (.wrB 19#5 0#64) ∧ decodeTableWord 16 0x0031 = none := by decide +kernel

/-! Binary64: each expected word is one of 95_test_vectors.md. -/

/-- WE-4, n = 0: w·x0. -/
theorem test_fmul_rounds : fmul third 0x3FA3404EA4A8C155#64 = 0x3F89AB02B3CAAE76#64 := by decide +kernel
/-- FS-7: overflow. -/
theorem test_fmul_overflows : fmul 0x4000000000000000#64 0x7FEFFFFFFFFFFFFF#64 = 0x7FF0000000000000#64 := by decide +kernel
/-- FS-13: 1 + 1e16 is a tie, to even. -/
theorem test_fadd_tie : fadd one 0x4341C37937E08000#64 = 0x4341C37937E08000#64 := by decide +kernel
/-- FS-6 (a): fadd(+0.0, -0.0) is +0.0. -/
theorem test_fadd_zeros : fadd posZero 0x8000000000000000#64 = posZero := by decide +kernel
/-- FS-14: exact cancellation. -/
theorem test_fadd_cancels : fadd one 0xBFF0000000000000#64 = posZero := by decide +kernel
/-- FS-3. -/
theorem test_fdiv_exact : fdiv 0x4008000000000000#64 0x4000000000000000#64 = 0x3FF8000000000000#64 := by decide +kernel
/-- FS-10 (a) and (b): a subnormal divisor. -/
theorem test_fdiv_subnormal : fdiv one 0x0000000000000001#64 = 0x7FF0000000000000#64 ∧
    fdiv 0x0000000000000001#64 0x0000000000000001#64 = one := by decide +kernel
/-- FS-6 (c): +0.0 / -1.0 is -0.0. -/
theorem test_fdiv_negative_zero : fdiv posZero 0xBFF0000000000000#64 = 0x8000000000000000#64 := by decide +kernel
/-- R111: the word of the decimal 0.33333; WE-4: that of -0.0321. -/
theorem test_f64_decimal : (AsmData.f64 false 33333 100000).word = third ∧
    (AsmData.f64 true 321 10000).word = 0xBFA06F694467381D#64 := by decide +kernel

/-! One step of each operation. -/

/-- RA-1. -/
theorem test_rdCaps : answerOn Arch.reset 0x0000#13 0#64 = some (false, 0x114#64) := by decide +kernel
/-- RA-3's second line. -/
theorem test_rdCfg : answerOn { Arch.reset with numIn := 25#8, numOut := 3#8 } 0x0008#13 0#64 = some (false, 0x319#64) := by
  decide +kernel
/-- RA-3: the upper data bits are ignored. -/
theorem test_wrCfg : stepOn Arch.reset 0x1008#13 0xFFFFFFFFFFFF0319#64 =
    some (⟨false, 0#64⟩, { Arch.reset with numIn := 25#8, numOut := 3#8 }) := by decide +kernel
/-- RA-4. -/
theorem test_wrCfg_locked : stepOn ma 0x1008#13 0x505#64 = some (⟨true, 0#64⟩, { ma with lastErr := 0x11#8 }) := by decide +kernel
/-- RA-22. -/
theorem test_rdStatus : answerOn { Arch.reset with lastErr := 0x10#8 } 0x0010#13 0#64 = some (false, 0x1000#64) := by decide +kernel
/-- CM-21: WDATA is ignored. -/
theorem test_configure : stepOn maOpen 0x1018#13 0xFFFFFFFFFFFFFFFF#64 = some (⟨false, 0#64⟩, ma) := by decide +kernel
/-- CM-5: -0.0 is a zero divisor. -/
theorem test_configure_a0 : stepOn (weights [] 0x8000000000000000#64 3#8 1#8 false) 0x1018#13 0#64 =
    some (⟨true, 0#64⟩, { weights [] 0x8000000000000000#64 3#8 1#8 false with lastErr := 0x04#8 }) := by decide +kernel
/-- CM-16. -/
theorem test_release : stepOn { ma with lastErr := 0x11#8, xh := zeroFile.set 0 one } 0x1020#13 0#64 =
    some (⟨false, 0#64⟩, Arch.reset) := by decide +kernel
/-- CM-19. -/
theorem test_clearErr : stepOn { ma with lastErr := 0x20#8 } 0x1028#13 0#64 = some (⟨false, 0#64⟩, ma) := by decide +kernel
/-- WE-4, n = 0. -/
theorem test_filter : stepOn ma 0x1030#13 0x3FA3404EA4A8C155#64 = some (⟨false, 0#64⟩,
    { ma with xh := zeroFile.set 0 0x3FA3404EA4A8C155#64, yh := zeroFile.set 0 0x3F89AB02B3CAAE76#64 }) := by decide +kernel
/-- FS-18. -/
theorem test_filter_unconfigured : stepOn Arch.reset 0x1030#13 one =
    some (⟨true, 0#64⟩, { Arch.reset with lastErr := 0x10#8 }) := by decide +kernel
/-- FS-17, n = 19: A[19] reads YH[18]. -/
theorem test_filter_deepest_tap :
    (filterOutput posZero { unit with numOut := 20#8, a := unit.a.set 19 0xBFF0000000000000#64, yh := zeroFile.set 18 one }) =
      one := by decide +kernel
/-- RA-24: the same word as RD_YH 0. -/
theorem test_rdYOut : answerOn { ma with yh := zeroFile.set 0 third } 0x0038#13 0#64 = some (false, third) := by decide +kernel
/-- RA-5. -/
theorem test_wrB_rdB : stepOn Arch.reset 0x1198#13 one = some (⟨false, 0#64⟩, { Arch.reset with b := zeroFile.set 19 one }) ∧
    answerOn { Arch.reset with b := zeroFile.set 19 one } 0x0198#13 0#64 = some (false, one) := by decide +kernel
/-- WE-5: a signalling NaN is stored unchanged. -/
theorem test_wrA_rdA : stepOn Arch.reset 0x1208#13 0x7FF0000000000001#64 =
      some (⟨false, 0#64⟩, { Arch.reset with a := zeroFile.set 1 0x7FF0000000000001#64 }) ∧
    answerOn { Arch.reset with a := zeroFile.set 1 one } 0x0208#13 0#64 = some (false, one) := by decide +kernel
/-- RA-6. -/
theorem test_wrA_locked : stepOn ma 0x1200#13 one = some (⟨true, 0#64⟩, { ma with lastErr := 0x11#8 }) := by decide +kernel
/-- RA-23. -/
theorem test_rdXh : answerOn { unit with xh := zeroFile.set 2 one } 0x0310#13 0#64 = some (false, one) := by decide +kernel
/-- P2. -/
theorem test_rdYh : answerOn { unit with yh := zeroFile.set 1 third } 0x0408#13 0#64 = some (false, third) := by decide +kernel
/-- ER-1: misalignment before anything else, in the step. -/
theorem test_misaligned : stepOn ma 0x1031#13 0#64 = some (⟨true, 0#64⟩, { ma with lastErr := 0x20#8 }) := by decide +kernel
/-- ER-7: a transaction cut by reset. -/
theorem test_reset_during : nextOf (step { arch := ma, pending := [.resetDuring (writeAt 0x030#12 one)], rsp := none }) =
    some State.reset := by decide +kernel
/-- R111, R112: the presets' sequences are P1's and P4's first six requests. -/
theorem test_presets : movingAverage.requests = [writeAt 0x100#12 third, writeAt 0x108#12 third, writeAt 0x110#12 third,
      writeAt 0x200#12 one, writeAt 0x008#12 0x103#64, writeAt 0x018#12 0#64] ∧
    butterworth.requests = [writeAt 0x100#12 third, writeAt 0x108#12 third, writeAt 0x110#12 third,
      writeAt 0x200#12 one, writeAt 0x008#12 0x303#64, writeAt 0x018#12 0#64] := by decide +kernel

/-! Witnesses: for each statement with hypotheses, values that meet all of them. -/

theorem witness_DecodeOfEncodeIsIdentity : (Instr.wrA 19#5 third).wf = true := by decide +kernel
theorem witness_EncodeOfDecodeRestoresTheRequest : decodeRequest (writeAt 0x198#12 third) = .ok (.wrB 19#5 third) := rfl
theorem witness_DecoderAgreesWithOpcodeTable : decodeRequest (readAt 0x498#12 third) = .ok (.rdYh 19#5) ∧
    decodeRequest (readAt 0x4A0#12 third) = .error .badAddress := ⟨rfl, rfl⟩
theorem witness_StepPerformsTheDecodedOperation :
    (offering ma 0x1028#13 0#64).pending = [.request (writeAt 0x028#12 0#64)] ∧
      decode (writeAt 0x028#12 0#64).toBits = .ok .clearErr := ⟨rfl, rfl⟩
theorem witness_StepRejectsWhatTheDecoderRejects :
    (offering ma 0x1031#13 0#64).pending = [.request (writeAt 0x031#12 0#64)] ∧
      decodeRequest (writeAt 0x031#12 0#64) = .error .badAddress ∧
      (offering ma 0x0030#13 0#64).pending = [.request (readAt 0x030#12 0#64)] ∧
      decodeRequest (readAt 0x030#12 0#64) = .error .badAccess := ⟨rfl, rfl, rfl, rfl⟩
theorem witness_TableWordRunsNext : decodeTableWord 16 0x1030 = some (.filter 0#64) := by decide +kernel
theorem witness_EveryRequestIsAnswered :
    (offering ma 0x1030#13 one).pending = [.request (writeAt 0x030#12 one)] := by decide +kernel
theorem witness_ResetAbandonsTheTransaction :
    (State.reset.withPending [.reset]).pending = [.reset] ∧
      (State.reset.withPending [.resetDuring (writeAt 0x030#12 one)]).pending =
        [.resetDuring (writeAt 0x030#12 one)] := ⟨rfl, rfl⟩
theorem witness_IdleHoldsTheState : (idleAt ma).pending = [] := rfl
theorem witness_ReservedTapIndexIsRejected : 20 ≤ (20#5 : TapIndex).toNat := by decide +kernel
theorem witness_CountsWrite : (idleAt maOpen).arch.configured = false ∧ (idleAt ma).arch.configured = true := by decide +kernel
theorem witness_WeightWrites : (idleAt maOpen).arch.configured = false ∧ (idleAt ma).arch.configured = true ∧
    (0 : Fin 20) ≠ 19 := by decide +kernel
theorem witness_LockGuardsTheConfiguration : (idleAt ma).arch.configured = true ∧ (Instr.wrB 19#5 one).wf = true ∧
    lockedOp (.wrB 19#5 one) = true ∧ (Instr.rdB 19#5).wf = true ∧ lockedOp (.rdB 19#5) = false := by decide +kernel
/-- One state for each branch of the chain, at the bounds: M = 21, M = 0, K = 21, both zeros, and M = K = 20. -/
theorem witness_ConfigureChecksThenConstructs : ma.configured = true ∧
    ((weights [] one 21#8 21#8 false).numIn.toNat > 20) ∧ ((weights [] one 0#8 21#8 false).numIn.toNat = 0) ∧
    ((weights [] posZero 20#8 21#8 false).numOut.toNat > 20) ∧ (weights [] posZero 20#8 0#8 false).a[0] = 0#64 ∧
    (weights [] 0x8000000000000000#64 1#8 20#8 false).a[0] = 0x8000000000000000#64 ∧
    (weights [] one 20#8 20#8 false).LegalCfg := by decide +kernel
theorem witness_RepeatedTransactionsAreIdempotent :
    decodeRequest (writeAt 0x020#12 one) = .ok .release ∧ decodeRequest (writeAt 0x018#12 one) = .ok .configure ∧
      (perform (writeAt 0x018#12 one) maOpen).2.err = false := ⟨rfl, rfl, by decide⟩
theorem witness_FilterEvaluatesTheRecurrence :
    (idleAt (weights [one] one 20#8 20#8 true)).arch.configured = true ∧
      (weights [one] one 20#8 20#8 true).numIn.toNat ≤ 20 ∧ (weights [one] one 20#8 20#8 true).numOut.toNat ≤ 20 ∧
      (idleAt maOpen).arch.configured = false := by decide +kernel
theorem witness_HistoriesHoldTheLastTwenty : ma.configured = true ∧ ma.xh = zeroFile ∧ ma.yh = zeroFile := by decide +kernel
/-- Two different states that agree where the statement asks: they differ in B[3], A[1], XH[2] and YH[19]. -/
theorem witness_FilterReadsOnlyTheActiveEntries :
    let other : Arch := { ma with b := ma.b.set 3 one, a := ma.a.set 1 one, xh := ma.xh.set 2 one, yh := ma.yh.set 19 one }
    ma ≠ other ∧ ma.configured = true ∧ other.configured = true ∧ ma.numIn = other.numIn ∧ ma.numOut = other.numOut ∧
      ma.numIn.toNat ≤ 20 ∧ ma.numOut.toNat ≤ 20 ∧
      (∀ i : Fin 20, i.val < ma.numIn.toNat → ma.b[i] = other.b[i]) ∧
      (∀ i : Fin 20, i.val < ma.numOut.toNat ∨ i.val = 0 → ma.a[i] = other.a[i]) ∧
      (∀ i : Fin 20, i.val + 1 < ma.numIn.toNat → ma.xh[i] = other.xh[i]) ∧
      (∀ i : Fin 20, i.val + 1 < ma.numOut.toNat → ma.yh[i] = other.yh[i]) := by decide +kernel
theorem witness_LaneDatapathGivesTheFoldBits : (weights [one] one 20#8 20#8 true).LegalCfg := by decide +kernel
theorem witness_SumOfZerosIsPositiveZero :
    ∀ t, t < 2 → feq0 (fmul (tap (zeroFile.set 0 0xBFF0000000000000#64) (0 + t)) (tap zeroFile t)) = true := by decide +kernel
theorem witness_NanOutputPersists :
    let c : Arch := { ma with numOut := 3#8, yh := zeroFile.set 0 0x7FF8000000000000#64 }
    c.configured = true ∧ 2 ≤ c.numOut.toNat ∧ c.numOut.toNat ≤ 20 ∧ isNan c.yh[0] = true := by decide +kernel
theorem movingAverage_constructs : (performAll movingAverage.requests Arch.reset).1 = ma := by decide +kernel
theorem witness_PresetsAgreeWhileFinite :
    ∀ y ∈ (feed [one] (performAll movingAverage.requests Arch.reset).1).2, isFinite y = true := by
  have h : isFinite (filterOutput one ma) = true := by decide +kernel
  rw [movingAverage_constructs, feed_cons one [] rfl]
  simpa [feed] using h
/-- With weights, at both bounds, and with K = 0, where A[0] is the word that stands there. -/
theorem witness_ConstructionConfigures : Arch.reset.configured = false ∧ 1 ≤ (1#8 : Byte).toNat ∧ (20#8 : Byte).toNat ≤ 20 ∧
    feq0 (if 0 < (20#8 : Byte).toNat then [one][0]?.getD Arch.reset.a[0] else Arch.reset.a[0]) = false ∧
    feq0 (if 0 < (0#8 : Byte).toNat then [posZero][0]?.getD maOpen.a[0] else maOpen.a[0]) = false := by decide +kernel
/-- R113: the loops end at the counts, although the lists go on. -/
theorem test_construction_stops_at_counts : construction 1#8 0#8 [third, one, one] [one] =
    [writeAt 0x100#12 third, writeAt 0x008#12 0x001#64, writeAt 0x018#12 0#64] := by decide +kernel
theorem witness_OutputStandsUntilTheNextFilter : ma.configured = true ∧
    ∀ r ∈ [readAt 0x300#12 0#64, writeAt 0x028#12 0#64],
      ¬ DecodesToFilter r ∧ decodeRequest r ≠ .ok .release := by
  refine ⟨by decide +kernel, fun r hr => ?_⟩
  simp only [List.mem_cons, List.not_mem_nil, or_false] at hr
  rcases hr with rfl | rfl <;>
    simp [DecodesToFilter, decodeRequest, decodeReg, singleReg, indexedReg, Reg.readOp, Reg.writeOp]
theorem witness_UnserializedHostsReadTheLaterOutput : ma.configured = true := by decide +kernel
theorem witness_InvalidOperationsGiveNan : isNan 0x7FF0000000000001#64 = true ∧ feq0 posZero = true ∧
    feq0 0x8000000000000000#64 = true ∧ isInf 0x7FF0000000000000#64 = true ∧ isInf 0xFFF0000000000000#64 = true ∧
    signBit 0x7FF0000000000000#64 ≠ signBit 0xFFF0000000000000#64 := by decide +kernel
theorem witness_SpecialValueResults : isFinite one = true ∧ feq0 one = false ∧ feq0 posZero = true ∧
    isInf 0xFFF0000000000000#64 = true ∧ isInf 0x7FF0000000000000#64 = true ∧ isFinite posZero = true ∧
    signBit 0x7FF0000000000000#64 = signBit 0x7FF0000000000000#64 ∧
    signBit 0x7FF0000000000000#64 ≠ signBit 0xFFF0000000000000#64 := by decide +kernel
/-- A magnitude below infinity, a tie between two magnitudes, and the first fraction that rounds to infinity. -/
theorem witness_RoundingIsToNearestTiesToEven : 0 < 2 ∧ roundMag 3 2 < infMag ∧
    |(3 : ℤ) - 2 * magQuanta (packWord false (roundMag 3 2))| = |(3 : ℤ) - 2 * magQuanta (packWord false 1)| ∧
    1 ≠ roundMag 3 2 ∧ roundMag ((2 ^ 54 - 1) * 2 ^ 2044) 1 = infMag := by decide +kernel
/-- 1 + 1 = 2, 2 - 1 = 1, 1 · 2 = 2 and 2 / 2 = 1, in quanta. -/
theorem witness_RepresentableResultsAreExact :
    isFinite one = true ∧ isFinite 0x4000000000000000#64 = true ∧ quanta one + quanta one = quanta 0x4000000000000000#64 ∧
      quanta 0x4000000000000000#64 - quanta one = quanta one ∧
      quanta one * quanta 0x4000000000000000#64 = quanta 0x4000000000000000#64 * 2 ^ 1074 ∧
      feq0 0x4000000000000000#64 = false ∧
      quanta 0x4000000000000000#64 * 2 ^ 1074 = quanta one * quanta 0x4000000000000000#64 := by decide +kernel
/-- One and two give nonzero exact results; one and one a zero difference; zeros a zero sum, product and dividend. -/
theorem witness_OperationsRoundTheExactResultOnce :
    isFinite one = true ∧ isFinite 0x4000000000000000#64 = true ∧ isFinite posZero = true ∧
      quanta one + quanta 0x4000000000000000#64 ≠ 0 ∧ quanta one - quanta 0x4000000000000000#64 ≠ 0 ∧
      quanta one * quanta 0x4000000000000000#64 ≠ 0 ∧ quanta one - quanta one = 0 ∧ quanta posZero + quanta posZero = 0 ∧
      quanta posZero * quanta one = 0 ∧ quanta posZero = 0 ∧ quanta one ≠ 0 := by decide +kernel
/-- A finite quotient that is not exact, 1/3, and an overflow, FS-7. -/
theorem witness_ResultsAreNearestToTheExactValue :
    isFinite (fdiv one 0x4008000000000000#64) = true ∧ quanta 0x4008000000000000#64 ≠ 0 ∧
      isFinite (fmul 0x4000000000000000#64 0x7FEFFFFFFFFFFFFF#64) = false ∧
      isFinite 0x7FEFFFFFFFFFFFFF#64 = true := by decide +kernel
theorem witness_StepKeepsTheInvariant : (offering ma 0x1020#13 0#64).arch.Inv ∧
    nextOf (step (offering ma 0x1020#13 0#64)) = some { State.reset with rsp := some ⟨false, 0#64⟩ } := by decide +kernel
theorem witness_ConfigurationIsFixedWhileConfigured :
    nextOf (step (offering { ma with lastErr := 0x20#8 } 0x1028#13 0#64)) =
      some { idleAt ma with rsp := some ⟨false, 0#64⟩ } ∧ ma.configured = true := by decide +kernel
theorem witness_OnlyConfigureEntersTheConfiguredState :
    nextOf (step (offering maOpen 0x1018#13 0#64)) = some { idleAt ma with rsp := some ⟨false, 0#64⟩ } ∧
      maOpen.configured = false ∧ ma.configured = true := by decide +kernel
/-- RELEASE changes every element but A[1..19]'s words; WR_A from reset changes A. -/
theorem witness_EachElementHasItsWriters :
    (nextOf (exec .release (idleAt { ma with xh := zeroFile.set 0 one, yh := zeroFile.set 0 one }))).map
        (fun t => (t.arch.b, t.arch.numIn, t.arch.configured, t.arch.xh, t.arch.yh)) =
      some (zeroFile, 0#8, false, zeroFile, zeroFile) ∧ ma.b ≠ zeroFile ∧ ma.numIn ≠ 0#8 ∧ ma.configured ≠ false ∧
    (nextOf (exec (.wrA 1#5 one) (idleAt Arch.reset))).map (fun t => t.arch.a) = some (zeroFile.set 1 one) ∧
      zeroFile.set 1 one ≠ zeroFile ∧
    (nextOf (exec (.wrA 1#5 one) (idleAt ma))).map (fun t => (t.arch.lastErr, t.rsp)) = some (0x11#8, some ⟨true, 0#64⟩) ∧
      ma.lastErr ≠ 0x11#8 := by decide +kernel
theorem witness_ResponsesAndLastErr :
    (stepOn ma 0x1018#13 0#64).map (fun p => p.1.err) = some true ∧
      (stepOn ma 0x0008#13 0#64).map (fun p => p.1.err) = some false ∧
      decodeRequest (writeAt 0x020#12 0#64) = .ok .release := ⟨by decide +kernel, by decide +kernel, rfl⟩
theorem witness_PortContentsDoNotMatter :
    let s := offering ma 0x0008#13 0#64
    let s' : State := { s with rsp := some ⟨true, 0#64⟩ }
    s ≠ s' ∧ s.arch = s'.arch ∧ s.pending = [.request (readAt 0x008#12 0#64)] ∧
      s'.pending = [.request (readAt 0x008#12 0#64)] ∧ (nextOf (step s)).isSome = true ∧
      (nextOf (step s')).isSome = true := by decide +kernel
theorem witness_ReadsDetermineTheState : ∀ addr : Addr, peek ma addr = peek ma addr := fun _ => rfl
theorem witness_ByteLanesAreLittleEndian : (0x498#12 : Addr).toNat % 8 = 0 ∧ (7 : Fin 8) ≠ 0 := by decide +kernel
theorem witness_InstancesAreIndependent : (0 : Nat) ≠ 1 ∧
    ({ instances := [State.reset, State.reset] } : System).instances[0]? =
      ({ instances := [State.reset, State.reset] } : System).instances[1]? := by decide +kernel
theorem witness_PortRefinesTransactions :
    ∀ inp ∈ [({ rst := false, req := some (writeAt 0x028#12 0#64), rspReady := true } : PortIn),
      { rst := false, req := none, rspReady := true }], inp.rst = false := by decide +kernel
theorem witness_PortResetAndOneInFlight : ({ rst := true, req := none, rspReady := true } : PortIn).rst = true ∧
    ({ arch := ma, phase := .waiting ⟨false, 0#64⟩ 0 } : PortState).phase = .waiting ⟨false, 0#64⟩ 0 := by decide +kernel
/-- The accepting cycle, with the host ready or not, and no cycle after it yet; latencies have no value to show more. -/
theorem witness_ResponseComesAfterItsLatency :
    ({ rst := false, req := some (writeAt 0x030#12 one), rspReady := false } : PortIn).rst = false ∧
      ({ rst := false, req := some (writeAt 0x030#12 one), rspReady := false } : PortIn).req = some (writeAt 0x030#12 one) ∧
      (∀ inp ∈ ([] : List PortIn), inp.rst = false) ∧ ([] : List PortIn).length ≤ latency (writeAt 0x030#12 one) - 1 :=
  ⟨rfl, rfl, fun _ h => absurd h List.not_mem_nil, Nat.zero_le _⟩

end Sys2Proof.Tests
end

section
/-! PROOF. The magnitudes of binary64 in order, and where `roundMag` puts a fraction among them. -/

namespace Sys2Proof.Machine

/-- The value in quanta of the word whose low 63 bits are `m` (`magQuanta_packWord`). -/
def magValue (m : Nat) : Nat :=
  if m / 2 ^ 52 = 0 then m % 2 ^ 52 else (2 ^ 52 + m % 2 ^ 52) * 2 ^ (m / 2 ^ 52 - 1)

theorem magQuanta_packWord (neg : Bool) {m : Nat} (h : m < 2 ^ 63) : magQuanta (packWord neg m) = magValue m := by
  rw [magQuanta, magValue, expField_packWord neg h, fracField_packWord neg h]

/-- The multiple `q` of `2^k` quanta is encoded as `k·2^52 + q`, the carry `q = 2^53` included. -/
theorem magValue_multiple {k q : Nat} (hq : q ≤ 2 ^ 53) (hk : k = 0 ∨ 2 ^ 52 ≤ q) :
    magValue (k * 2 ^ 52 + q) = q * 2 ^ k := by
  obtain hlt | hmid | rfl : q < 2 ^ 52 ∨ (2 ^ 52 ≤ q ∧ q < 2 ^ 53) ∨ q = 2 ^ 53 := by omega
  · obtain rfl : k = 0 := by omega
    rw [zero_mul, zero_add, pow_zero, mul_one, magValue, Nat.div_eq_of_lt hlt, if_pos rfl, Nat.mod_eq_of_lt hlt]
  · have hdiv : (k * 2 ^ 52 + q) / 2 ^ 52 = k + 1 := by omega
    have hmod : 2 ^ 52 + (k * 2 ^ 52 + q) % 2 ^ 52 = q := by omega
    rw [magValue, hdiv, hmod, if_neg (by omega), Nat.add_sub_cancel]
  · have hdiv : (k * 2 ^ 52 + 2 ^ 53) / 2 ^ 52 = k + 2 := by omega
    have hmod : (k * 2 ^ 52 + 2 ^ 53) % 2 ^ 52 = 0 := by omega
    rw [magValue, hdiv, hmod, if_neg (by omega), show k + 2 - 1 = k + 1 from rfl, pow_succ]
    ring

/-- Consecutive magnitudes are one spacing apart. -/
theorem magValue_succ (m : Nat) : magValue (m + 1) = magValue m + 2 ^ (m / 2 ^ 52 - 1) := by
  obtain ⟨k, q, hk, hq, hkq, rfl⟩ :
      ∃ k q, m / 2 ^ 52 - 1 = k ∧ q < 2 ^ 53 ∧ (k = 0 ∨ 2 ^ 52 ≤ q) ∧ m = k * 2 ^ 52 + q :=
    ⟨m / 2 ^ 52 - 1, m - (m / 2 ^ 52 - 1) * 2 ^ 52, by omega⟩
  rw [hk, add_assoc, magValue_multiple (q := q + 1) hq (by omega), magValue_multiple hq.le hkq]
  ring

theorem magValue_strictMono : StrictMono magValue :=
  strictMono_nat_of_lt_succ fun m => by
    rw [magValue_succ]
    exact Nat.lt_add_of_pos_right (by positivity)

@[simp] theorem magValue_zero : magValue 0 = 0 := by simp [magValue]

theorem magValue_eq_zero {m : Nat} : magValue m = 0 ↔ m = 0 :=
  ⟨fun h => magValue_strictMono.injective (h.trans magValue_zero.symm), fun h => by rw [h, magValue_zero]⟩

/-- The significand of `n / d` at its spacing has at most 53 bits, and exactly 53 above the first normal binade. -/
theorem significand_bounds (n d : Nat) :
    n / (d * 2 ^ spacing n d) < 2 ^ 53 ∧ (spacing n d = 0 ∨ 2 ^ 52 ≤ n / (d * 2 ^ spacing n d)) := by
  rw [← Nat.div_div_eq_div_mul, spacing]
  generalize n / d = x
  by_cases hx : x < 2 ^ 53
  · have hlog : Nat.log2 x - 52 = 0 := by
      by_cases h0 : x = 0
      · simp [h0]
      · have := (Nat.log2_lt h0).mpr hx
        omega
    simpa [hlog] using hx
  · have h0 : x ≠ 0 := by omega
    have hge : 53 ≤ Nat.log2 x := (Nat.le_log2 h0).mpr (by omega)
    obtain ⟨k, hk⟩ := Nat.exists_eq_add_of_le' (show 52 ≤ Nat.log2 x by omega)
    have hlo : 2 ^ (k + 52) ≤ x := (Nat.le_log2 h0).mp hk.ge
    have hhi : x < 2 ^ (k + 52 + 1) := (Nat.log2_lt h0).mp (by omega)
    rw [hk, Nat.add_sub_cancel]
    refine ⟨(Nat.div_lt_iff_lt_mul (by positivity)).mpr ?_, .inr ((Nat.le_div_iff_mul_le (by positivity)).mpr ?_)⟩
    · calc x < 2 ^ (k + 52 + 1) := hhi
        _ = 2 ^ 53 * 2 ^ k := by ring
    · calc 2 ^ 52 * 2 ^ k = 2 ^ (k + 52) := by ring
        _ ≤ x := hlo

/-- `roundMag` brackets `n / d` between two consecutive magnitudes and takes the upper one past their middle, and in the
middle where the lower one is odd; past the finite magnitudes stands the infinity. -/
theorem roundMag_bracket (n : Nat) {d : Nat} (hd : 0 < d) :
    ∃ m, d * magValue m ≤ n ∧ n < d * magValue (m + 1) ∧
      roundMag n d = min (if d * magValue m + d * magValue (m + 1) < 2 * n ∨
        (d * magValue m + d * magValue (m + 1) = 2 * n ∧ m % 2 = 1) then m + 1 else m) infMag := by
  obtain ⟨hq, hk⟩ := significand_bounds n d
  simp only [roundMag, Bool.or_eq_true, Bool.and_eq_true, decide_eq_true_eq]
  generalize spacing n d = k at *
  have hpos : 0 < d * 2 ^ k := by positivity
  have hn := Nat.div_add_mod n (d * 2 ^ k)
  have hr := Nat.mod_lt n hpos
  generalize n / (d * 2 ^ k) = q at *
  generalize n % (d * 2 ^ k) = r at *
  have hlo : d * magValue (k * 2 ^ 52 + q) = d * 2 ^ k * q := by
    rw [magValue_multiple hq.le hk]; ring
  have hhi : d * magValue (k * 2 ^ 52 + q + 1) = d * 2 ^ k * q + d * 2 ^ k := by
    rw [add_assoc, magValue_multiple (q := q + 1) hq (by omega)]; ring
  refine ⟨k * 2 ^ 52 + q, by omega, by omega, ?_⟩
  rw [hlo, hhi]
  congr 1
  split_ifs <;> omega

/-! The rounding against the finite magnitudes. -/

/-- The nearer end of a bracket is nearest among all points outside its interior, and alone unless the other end is as
near. -/
theorem abs_sub_lower_end_le {x lo hi y : ℤ} (hlo : lo ≤ x) (_ : x ≤ hi) (hmid : 2 * x ≤ lo + hi)
    (hy : y ≤ lo ∨ hi ≤ y) : |x - lo| ≤ |x - y| ∧ (|x - lo| = |x - y| → y = lo ∨ lo + hi = 2 * x) := by
  rw [abs_of_nonneg (sub_nonneg.mpr hlo)]
  rcases abs_cases (x - y) with h | h <;> omega

theorem abs_sub_upper_end_le {x lo hi y : ℤ} (_ : lo ≤ x) (hhi : x ≤ hi) (hmid : lo + hi ≤ 2 * x)
    (hy : y ≤ lo ∨ hi ≤ y) : |x - hi| ≤ |x - y| ∧ (|x - hi| = |x - y| → y = hi ∨ lo + hi = 2 * x) := by
  rw [abs_of_nonpos (sub_nonpos.mpr hhi)]
  rcases abs_cases (x - y) with h | h <;> omega

/-- While it is finite, the rounded magnitude is nearest to `n / d` among all magnitudes, and even where another one is
as near. -/
theorem roundMag_nearest (n : Nat) {d : Nat} (hd : 0 < d) (hfin : roundMag n d < infMag) (v : Nat) :
    |(n : ℤ) - d * magValue (roundMag n d)| ≤ |(n : ℤ) - d * magValue v| ∧
      (|(n : ℤ) - d * magValue (roundMag n d)| = |(n : ℤ) - d * magValue v| → v ≠ roundMag n d →
        roundMag n d % 2 = 0) := by
  obtain ⟨m, hlo, hhi, hround⟩ := roundMag_bracket n hd
  have hv : (d : ℤ) * magValue v ≤ d * magValue m ∨ (d : ℤ) * magValue (m + 1) ≤ d * magValue v :=
    (Nat.lt_or_ge m v).symm.imp
      (fun h => by exact_mod_cast Nat.mul_le_mul_left d (magValue_strictMono.monotone h))
      (fun h => by exact_mod_cast Nat.mul_le_mul_left d (magValue_strictMono.monotone h))
  have heq (u : Nat) (h : (d : ℤ) * magValue v = d * magValue u) : v = u :=
    magValue_strictMono.injective (Nat.eq_of_mul_eq_mul_left hd (by exact_mod_cast h))
  zify at hlo hhi
  split_ifs at hround with hup
  · have hm : roundMag n d = m + 1 := by omega
    rw [hm]
    obtain ⟨hle, htie⟩ := abs_sub_upper_end_le hlo hhi.le (by omega) hv
    exact ⟨hle, fun h hne => by have := (htie h).resolve_left (hne ∘ heq _); omega⟩
  · have hm : roundMag n d = m := by omega
    rw [hm]
    obtain ⟨hle, htie⟩ := abs_sub_lower_end_le hlo hhi.le (by omega) hv
    exact ⟨hle, fun h hne => by have := (htie h).resolve_left (hne ∘ heq _); omega⟩

/-- The largest finite magnitude. -/
theorem magValue_maxFinite : magValue (infMag - 1) = (2 ^ 53 - 1) * 2 ^ 2045 :=
  (congrArg magValue (by decide : infMag - 1 = 2045 * 2 ^ 52 + (2 ^ 53 - 1))).trans
    (magValue_multiple (by omega) (by omega))

/-- The infinity stands where the next finite magnitude would. -/
theorem magValue_infMag : magValue infMag = 2 ^ 53 * 2 ^ 2045 :=
  (congrArg magValue (by decide : infMag = 2045 * 2 ^ 52 + 2 ^ 53)).trans
    (magValue_multiple (by omega) (by omega))

/-- Half a spacing past the largest finite magnitude is the middle between it and the next one. -/
theorem magValue_maxFinite_add_infMag : magValue (infMag - 1) + magValue infMag = 2 * ((2 ^ 54 - 1) * 2 ^ 2044) := by
  have hpow : 2 ^ 2045 = 2 ^ 2044 * 2 := by rw [← pow_succ]
  rw [magValue_maxFinite, magValue_infMag, hpow]
  generalize 2 ^ 2044 = h
  ring

/-- The infinity is taken exactly from half a spacing past the largest finite magnitude on. -/
theorem roundMag_eq_infMag_iff (n : Nat) {d : Nat} (hd : 0 < d) :
    roundMag n d = infMag ↔ (2 ^ 54 - 1) * 2 ^ 2044 * d ≤ n := by
  obtain ⟨m, hlo, hhi, hround⟩ := roundMag_bracket n hd
  obtain ⟨top, htop, hodd⟩ : ∃ top, infMag = top + 1 ∧ top % 2 = 1 := ⟨infMag - 1, rfl, rfl⟩
  have hmid := magValue_maxFinite_add_infMag
  rw [htop] at hround hmid ⊢
  rw [Nat.add_sub_cancel] at hmid
  clear htop
  have hmono {i j : Nat} (h : i ≤ j) : d * magValue i ≤ d * magValue j :=
    Nat.mul_le_mul_left d (magValue_strictMono.monotone h)
  have hstep : d * magValue top < d * magValue (top + 1) :=
    Nat.mul_lt_mul_of_pos_left (magValue_strictMono top.lt_succ_self) hd
  generalize (2 ^ 54 - 1) * 2 ^ 2044 = half at *
  replace hmid : d * magValue top + d * magValue (top + 1) = 2 * (half * d) := by rw [← mul_add, hmid]; ring
  obtain hlt | rfl | hgt : m + 1 ≤ top ∨ m = top ∨ top + 1 ≤ m := by omega
  · have hle := hmono hlt
    split_ifs at hround <;> omega
  · split_ifs at hround <;> omega
  · have hle := hmono hgt
    split_ifs at hround <;> omega

/-- A magnitude below the infinity's is its own rounding. -/
theorem roundMag_mul_magValue {m d : Nat} (hd : 0 < d) (hm : m < infMag) : roundMag (d * magValue m) d = m := by
  obtain ⟨m', hlo, hhi, hround⟩ := roundMag_bracket (d * magValue m) hd
  obtain rfl : m' = m := le_antisymm
    (magValue_strictMono.le_iff_le.mp (Nat.le_of_mul_le_mul_left hlo hd))
    (Nat.le_of_lt_succ (magValue_strictMono.lt_iff_lt.mp (Nat.lt_of_mul_lt_mul_left hhi)))
  rw [hround, if_neg (by omega), Nat.min_eq_left hm.le]

/-- Settles O38: the bracket of `roundMag_bracket` gives the nearest magnitude, the even one of a tie, and the
threshold. -/
theorem roundingIsToNearestTiesToEven : Obligations.RoundingIsToNearestTiesToEven := by
  intro n d hd
  refine ⟨fun hfin v hv => ?_, roundMag_eq_infMag_iff n hd⟩
  have hlt {m : Nat} (h : m < infMag) : m < 2 ^ 63 := h.trans (by decide)
  rw [magQuanta_packWord false (hlt hfin), magQuanta_packWord false (hlt hv)]
  exact roundMag_nearest n hd hfin v

end Sys2Proof.Machine
end

section
/-! PROOF. A word is a sign on its low 63 bits, and the low bits order the zeros, the finite words, the infinities
and the NaNs. -/

namespace Sys2Proof.Machine

/-- Bits 62:0 of a word, exponent and fraction together: `m` in `packWord neg m` (`lowBits_packWord`). -/
def lowBits (w : Word) : Nat := expField w * 2 ^ 52 + fracField w

theorem lowBits_lt (w : Word) : lowBits w < 2 ^ 63 := by
  have he := expField_lt w
  have hf := fracField_lt w
  unfold lowBits
  omega

theorem toNat_eq_lowBits (w : Word) : w.toNat = (if signBit w then 2 ^ 63 else 0) + lowBits w := by
  rw [toNat_eq_fields, lowBits, Nat.add_assoc]

theorem packWord_lowBits (w : Word) : packWord (signBit w) (lowBits w) = w :=
  BitVec.eq_of_toNat_eq (by rw [toNat_packWord _ (lowBits_lt w), ← toNat_eq_lowBits])

theorem lowBits_packWord (neg : Bool) {m : Nat} (h : m < 2 ^ 63) : lowBits (packWord neg m) = m := by
  rw [lowBits, expField_packWord neg h, fracField_packWord neg h, Nat.div_add_mod']

theorem isFinite_iff (w : Word) : isFinite w = true ↔ lowBits w < infMag := by
  have he := expField_lt w
  have hf := fracField_lt w
  have hi : infMag = 0x7FF0000000000000 := rfl
  rw [isFinite, decide_eq_true_eq, lowBits]
  omega

theorem isInf_iff (w : Word) : isInf w = true ↔ lowBits w = infMag := by
  have he := expField_lt w
  have hf := fracField_lt w
  have hi : infMag = 0x7FF0000000000000 := rfl
  rw [isInf, Bool.and_eq_true, decide_eq_true_eq, decide_eq_true_eq, lowBits]
  omega

theorem isNan_iff (w : Word) : isNan w = true ↔ infMag < lowBits w := by
  have he := expField_lt w
  have hf := fracField_lt w
  have hi : infMag = 0x7FF0000000000000 := rfl
  rw [isNan, Bool.and_eq_true, decide_eq_true_eq, decide_eq_true_eq, lowBits]
  omega

theorem feq0_iff (w : Word) : feq0 w = true ↔ lowBits w = 0 := by
  have hw := toNat_eq_lowBits w
  have hl := lowBits_lt w
  rw [feq0, decide_eq_true_eq, ← BitVec.toNat_inj, BitVec.extractLsb'_toNat, Nat.shiftRight_zero]
  split at hw <;> simp <;> omega

/-! What the four kinds of words exclude, for the branches of the operations. -/

theorem isNan_of_isFinite {w : Word} (h : isFinite w = true) : isNan w = false := by
  rw [isFinite_iff] at h
  rw [Bool.eq_false_iff, ne_eq, isNan_iff]
  omega

theorem isInf_of_isFinite {w : Word} (h : isFinite w = true) : isInf w = false := by
  rw [isFinite_iff] at h
  rw [Bool.eq_false_iff, ne_eq, isInf_iff]
  omega

theorem isNan_of_isInf {w : Word} (h : isInf w = true) : isNan w = false := by
  rw [isInf_iff] at h
  rw [Bool.eq_false_iff, ne_eq, isNan_iff]
  omega

theorem isFinite_of_feq0 {w : Word} (h : feq0 w = true) : isFinite w = true := by
  rw [feq0_iff] at h
  rw [isFinite_iff, h]
  decide

theorem feq0_of_isInf {w : Word} (h : isInf w = true) : feq0 w = false := by
  rw [Bool.eq_false_iff]
  intro h0
  rw [isInf_of_isFinite (isFinite_of_feq0 h0)] at h
  cases h

/-! Packed words and their values. -/

theorem isInf_packWord_infMag (neg : Bool) : isInf (packWord neg infMag) = true := by
  rw [isInf_iff, lowBits_packWord neg (by decide)]

theorem feq0_packWord_zero (neg : Bool) : feq0 (packWord neg 0) = true := by
  rw [feq0_iff, lowBits_packWord neg (by decide)]

theorem magQuanta_eq_magValue (w : Word) : magQuanta w = magValue (lowBits w) := by
  conv_lhs => rw [← packWord_lowBits w]
  exact magQuanta_packWord _ (lowBits_lt w)

theorem natAbs_quanta (w : Word) : (quanta w).natAbs = magQuanta w := by
  unfold quanta
  split <;> simp

/-- The value of a word, infinities and NaNs included, is 0 at the two zeros only. -/
theorem feq0_iff_quanta (w : Word) : feq0 w = true ↔ quanta w = 0 := by
  rw [feq0_iff, ← Int.natAbs_eq_zero, natAbs_quanta, magQuanta_eq_magValue, magValue_eq_zero]

/-- Inverting the sign bit is an exclusive or with -0.0. -/
theorem negate_eq_xor (q : Word) : negate q = q ^^^ 0x8000000000000000#64 := by
  have hlow : BitVec.ofNat 63 (q.toNat % 2 ^ 63) = q.setWidth 63 := BitVec.eq_of_toNat_eq (by simp)
  have hsign : 0x8000000000000000#64 = BitVec.twoPow 64 63 := by decide
  rw [negate, packWord, hlow, hsign]
  refine BitVec.eq_of_getLsbD_eq fun i hi => ?_
  rw [BitVec.getLsbD_append, BitVec.getLsbD_xor, BitVec.getLsbD_twoPow]
  by_cases h : i < 63
  · simp [h, show ¬ 63 = i by omega]
  · obtain rfl : i = 63 := by omega
    simp [signBit]

/-- Settles O35: a word of low bits 0 is +0.0 or -0.0, by its sign. -/
theorem feqZeroIsExactlyTheZeros : Obligations.FeqZeroIsExactlyTheZeros := by
  intro w
  constructor
  · intro h
    rw [feq0_iff] at h
    rw [← packWord_lowBits w, h]
    cases signBit w
    · exact .inl (by decide)
    · exact .inr (by decide)
  · rintro (rfl | rfl) <;> decide

end Sys2Proof.Machine
end

section
/-! PROOF. The branches of the four operations, one lemma each, and the special values that they give. -/

namespace Sys2Proof.Machine

/-! Sums: fadd is `addAs` on its own operands, fsub on the second one negated. -/

theorem isNan_addAs {op : FpOp} {p q q' : Word}
    (h : isNan p = true ∨ isNan q' = true ∨ isInf p = true ∧ isInf q' = true ∧ signBit p ≠ signBit q') :
    isNan (addAs op p q q') = true := by
  unfold addAs
  rw [if_pos (by rcases h with h | h | ⟨hp, hq, hs⟩ <;> simp [*]), isNan_nanResult]

theorem addAs_of_isInf_left {op : FpOp} {p q q' : Word} (hp : isInf p = true) (hq : isNan q' = false)
    (hs : isInf q' = true → signBit p = signBit q') : addAs op p q q' = p := by
  unfold addAs
  rw [if_neg (by simpa [hp, hq, isNan_of_isInf hp] using hs), if_pos hp]

theorem addAs_of_isInf_right {op : FpOp} {p q q' : Word} (hp : isFinite p = true) (hq : isInf q' = true) :
    addAs op p q q' = q' := by
  unfold addAs
  simp [hq, isNan_of_isFinite hp, isInf_of_isFinite hp, isNan_of_isInf hq]

theorem addAs_of_isFinite {op : FpOp} {p q q' : Word} (hp : isFinite p = true) (hq : isFinite q' = true) :
    addAs op p q q' = if quanta p + quanta q' = 0 then packWord (signBit p && signBit q') 0
      else packWord (decide (quanta p + quanta q' < 0)) (roundMag (quanta p + quanta q').natAbs 1) := by
  unfold addAs
  simp [isNan_of_isFinite hp, isInf_of_isFinite hp, isNan_of_isFinite hq, isInf_of_isFinite hq]

theorem isFinite_negate (q : Word) : isFinite (negate q) = isFinite q := by simp [isFinite]

theorem isInf_negate (q : Word) : isInf (negate q) = isInf q := by simp [isInf]

theorem isNan_negate (q : Word) : isNan (negate q) = isNan q := by simp [isNan]

/-! Products. -/

theorem isNan_fmul {p q : Word} (h : isNan p = true ∨ isNan q = true ∨ isInf p = true ∧ feq0 q = true ∨
    feq0 p = true ∧ isInf q = true) : isNan (fmul p q) = true := by
  unfold fmul
  dsimp only
  rw [if_pos (by rcases h with h | h | ⟨hp, hq⟩ | ⟨hp, hq⟩ <;> simp [*]), isNan_nanResult]

/-- A product with an infinity, of two words that are neither zeros nor NaNs. -/
theorem fmul_of_isInf {p q : Word} (h : isInf p = true ∨ isInf q = true) (hp : isNan p = false) (hq : isNan q = false)
    (hp0 : feq0 p = false) (hq0 : feq0 q = false) : fmul p q = packWord (signBit p != signBit q) infMag := by
  unfold fmul
  simp [hp, hq, hp0, hq0, h]

theorem fmul_of_isFinite {p q : Word} (hp : isFinite p = true) (hq : isFinite q = true) :
    fmul p q = packWord (signBit p != signBit q) (roundMag (magQuanta p * magQuanta q) (2 ^ 1074)) := by
  have hbranch : isInf p = false ∧ isInf q = false ∧ isNan p = false ∧ isNan q = false :=
    ⟨isInf_of_isFinite hp, isInf_of_isFinite hq, isNan_of_isFinite hp, isNan_of_isFinite hq⟩
  unfold fmul
  dsimp only
  rw [if_neg (by simp [hbranch]), if_neg (by simp [hbranch])]

/-! Quotients. -/

theorem isNan_fdiv {p q : Word} (h : isNan p = true ∨ isNan q = true ∨ isInf p = true ∧ isInf q = true ∨
    feq0 p = true ∧ feq0 q = true) : isNan (fdiv p q) = true := by
  unfold fdiv
  dsimp only
  rw [if_pos (by rcases h with h | h | ⟨hp, hq⟩ | ⟨hp, hq⟩ <;> simp [*]), isNan_nanResult]

theorem fdiv_of_isInf_left {p q : Word} (hp : isInf p = true) (hq : isFinite q = true) :
    fdiv p q = packWord (signBit p != signBit q) infMag := by
  unfold fdiv
  simp [hp, isNan_of_isInf hp, feq0_of_isInf hp, isNan_of_isFinite hq, isInf_of_isFinite hq]

theorem fdiv_of_feq0_right {p q : Word} (hp : isFinite p = true) (hp0 : feq0 p = false) (hq : feq0 q = true) :
    fdiv p q = packWord (signBit p != signBit q) infMag := by
  unfold fdiv
  simp [hp0, hq, isNan_of_isFinite hp, isInf_of_isFinite hp, isNan_of_isFinite (isFinite_of_feq0 hq)]

theorem fdiv_of_isInf_right {p q : Word} (hp : isFinite p = true) (hq : isInf q = true) :
    fdiv p q = packWord (signBit p != signBit q) 0 := by
  unfold fdiv
  simp [hq, isNan_of_isFinite hp, isInf_of_isFinite hp, isNan_of_isInf hq, feq0_of_isInf hq]

theorem fdiv_of_isFinite {p q : Word} (hp : isFinite p = true) (hq : isFinite q = true) (hq0 : feq0 q = false) :
    fdiv p q = packWord (signBit p != signBit q) (roundMag (magQuanta p * 2 ^ 1074) (magQuanta q)) := by
  have hbranch : isInf p = false ∧ isInf q = false ∧ isNan p = false ∧ isNan q = false :=
    ⟨isInf_of_isFinite hp, isInf_of_isFinite hq, isNan_of_isFinite hp, isNan_of_isFinite hq⟩
  unfold fdiv
  dsimp only
  rw [if_neg (by simp [hbranch, hq0]), if_neg (by simp [hbranch, hq0]), if_neg (by simp [hbranch])]

/-- Settles O36: each invalid operand pair meets the first branch of its operation. -/
theorem invalidOperationsGiveNan : Obligations.InvalidOperationsGiveNan := by
  intro p q
  refine ⟨fun h => ⟨?_, ?_, ?_, ?_⟩, fun hp hq => ⟨?_, ?_⟩, fun hp hq => ⟨?_, fun hs => ?_, fun hs => ?_⟩,
    fun hp hq => ?_⟩
  · exact isNan_addAs (by tauto)
  · exact isNan_addAs (by rw [isNan_negate]; tauto)
  · exact isNan_fmul (by tauto)
  · exact isNan_fdiv (by tauto)
  · exact isNan_fmul (by tauto)
  · exact isNan_fmul (by tauto)
  · exact isNan_fdiv (by tauto)
  · exact isNan_addAs (.inr (.inr ⟨hp, (isInf_negate q).trans hq, by simp [hs]⟩))
  · exact isNan_addAs (.inr (.inr ⟨hp, hq, hs⟩))
  · exact isNan_fdiv (by tauto)

/-- The low bits and the sign of a packed infinity, as the statements of O37 ask for them. -/
theorem isInf_signBit_of_eq {r : Word} {neg : Bool} (h : r = packWord neg infMag) :
    isInf r = true ∧ signBit r = neg := by
  rw [h, signBit_packWord neg (by decide)]
  exact ⟨isInf_packWord_infMag neg, rfl⟩

/-- Settles O37: one branch of its operation for each clause. -/
theorem specialValueResults : Obligations.SpecialValueResults := by
  intro p q
  refine ⟨fun hp hp0 hq => ?_, fun hp => ?_, fun hp hq => ⟨?_, ?_⟩, fun hp hq hs => ?_, fun hp hq => ⟨?_, ?_⟩,
    fun hp hq hs => ?_, fun hp hq hq0 => ?_, fun hp hq => ?_, fun hp hq => ?_, fun hp hq => ?_⟩
  · exact isInf_signBit_of_eq (fdiv_of_feq0_right hp hp0 hq)
  · rw [fsub, addAs_of_isFinite hp ((isFinite_negate p).trans hp), quanta_negate, signBit_negate, Int.add_right_neg,
      if_pos rfl, Bool.and_not_self]
    decide
  · exact addAs_of_isInf_left hp (isNan_of_isFinite hq) (by simp [isInf_of_isFinite hq])
  · exact addAs_of_isInf_right hq hp
  · exact addAs_of_isInf_left hp (isNan_of_isInf hq) fun _ => hs
  · exact addAs_of_isInf_left hp ((isNan_negate q).trans (isNan_of_isFinite hq))
      (by simp [isInf_negate, isInf_of_isFinite hq])
  · rw [← negate_eq_xor]
    exact addAs_of_isInf_right hq ((isInf_negate p).trans hp)
  · exact addAs_of_isInf_left hp ((isNan_negate q).trans (isNan_of_isInf hq)) fun _ => by
      rw [signBit_negate]; exact Bool.eq_not_of_ne hs
  · have hpq := fmul_of_isInf (.inl hp) (isNan_of_isInf hp) (isNan_of_isFinite hq) (feq0_of_isInf hp) hq0
    have hqp := fmul_of_isInf (.inr hp) (isNan_of_isFinite hq) (isNan_of_isInf hp) hq0 (feq0_of_isInf hp)
    obtain ⟨hi, hs⟩ := isInf_signBit_of_eq hpq
    exact ⟨hi, hs, by rw [hqp, hpq, bne_comm]⟩
  · exact isInf_signBit_of_eq
      (fmul_of_isInf (.inl hp) (isNan_of_isInf hp) (isNan_of_isInf hq) (feq0_of_isInf hp) (feq0_of_isInf hq))
  · exact isInf_signBit_of_eq (fdiv_of_isInf_left hp hq)
  · rw [fdiv_of_isInf_right hp hq, signBit_packWord _ (by decide)]
    exact ⟨feq0_packWord_zero _, rfl⟩

end Sys2Proof.Machine
end

section
/-! PROOF. The operations on finite words: one rounding of the exact result, and what follows from it. -/

namespace Sys2Proof.Machine

/-- A nonzero value has the sign of its word. -/
theorem signBit_eq_of_quanta_ne_zero {w : Word} (h : quanta w ≠ 0) : signBit w = decide (quanta w < 0) := by
  unfold quanta at h ⊢
  cases signBit w
  · simp
  · simp at h ⊢
    omega

/-- A nonzero product or quotient has the exclusive or of the operands' signs. -/
theorem signBit_bne_eq {p q : Word} (hp : quanta p ≠ 0) (hq : quanta q ≠ 0) :
    (signBit p != signBit q) = decide (quanta p * quanta q < 0) := by
  rw [signBit_eq_of_quanta_ne_zero hp, signBit_eq_of_quanta_ne_zero hq]
  rw [Bool.eq_iff_iff, bne_iff_ne, ne_eq, decide_eq_decide, decide_eq_true_eq, mul_neg_iff]
  omega

theorem natAbs_two_pow (k : Nat) : ((2 : ℤ) ^ k).natAbs = 2 ^ k := by
  rw [Int.natAbs_pow]
  rfl

/-- Settles O54: the finite branch of each operation, in terms of the exact result. -/
theorem operationsRoundTheExactResultOnce : Obligations.OperationsRoundTheExactResultOnce := by
  intro p q hp hq
  have hadd := addAs_of_isFinite (op := .add) (p := p) (q := q) hp hq
  have hsub := addAs_of_isFinite (op := .sub) (p := p) (q := q) hp ((isFinite_negate q).trans hq)
  have hmul := fmul_of_isFinite hp hq
  rw [quanta_negate, signBit_negate, ← sub_eq_add_neg] at hsub
  rw [← natAbs_quanta, ← natAbs_quanta, ← Int.natAbs_mul] at hmul
  have hdiv (hq0 : quanta q ≠ 0) := fdiv_of_isFinite hp hq (by rwa [Bool.eq_false_iff, ne_eq, feq0_iff_quanta])
  refine ⟨fun h => ?_, fun h => ?_, fun h => ?_, fun h => ?_, fun h => ?_, fun h => ?_, fun h h' => ?_, fun h h' => ?_⟩
  · rw [fadd, hadd, if_neg h]
  · rw [fadd, hadd, if_pos h]
  · rw [fsub, hsub, if_neg h]
  · rw [fsub, hsub, if_pos h]
  · rw [hmul, signBit_bne_eq (left_ne_zero_of_mul h) (right_ne_zero_of_mul h)]
  · rw [hmul, h, Int.natAbs_zero, roundMag_zero]
  · rw [hdiv h', signBit_bne_eq h h', Int.natAbs_mul, natAbs_quanta, natAbs_quanta, natAbs_two_pow]
  · rw [hdiv h', ← natAbs_quanta p, h, Int.natAbs_zero, zero_mul, roundMag_zero]

/-- `r` is `num / den` quanta rounded once: its sign, where there is one, on `roundMag` of its magnitude. -/
def RoundsTo (r : Word) (num den : ℤ) : Prop :=
  ∃ neg : Bool, r = packWord neg (roundMag num.natAbs den.natAbs) ∧ (num ≠ 0 → neg = decide (num * den < 0))

theorem roundsTo_fadd {p q : Word} (hp : isFinite p = true) (hq : isFinite q = true) :
    RoundsTo (fadd p q) (quanta p + quanta q) 1 := by
  obtain ⟨hne, heq, -⟩ := operationsRoundTheExactResultOnce p q hp hq
  by_cases h : quanta p + quanta q = 0
  · exact ⟨_, by rw [heq h, h, Int.natAbs_zero, roundMag_zero], fun h0 => absurd h h0⟩
  · exact ⟨_, hne h, fun _ => by rw [mul_one]⟩

theorem roundsTo_fsub {p q : Word} (hp : isFinite p = true) (hq : isFinite q = true) :
    RoundsTo (fsub p q) (quanta p - quanta q) 1 := by
  obtain ⟨-, -, hne, heq, -⟩ := operationsRoundTheExactResultOnce p q hp hq
  by_cases h : quanta p - quanta q = 0
  · exact ⟨_, by rw [heq h, h, Int.natAbs_zero, roundMag_zero], fun h0 => absurd h h0⟩
  · exact ⟨_, hne h, fun _ => by rw [mul_one]⟩

/-- A power of two keeps the sign of what it scales. -/
theorem mul_two_pow_neg_iff {x : ℤ} (k : Nat) : x * 2 ^ k < 0 ↔ x < 0 :=
  ⟨fun h => neg_of_mul_neg_left h (by positivity), fun h => mul_neg_of_neg_of_pos h (by positivity)⟩

theorem roundsTo_fmul {p q : Word} (hp : isFinite p = true) (hq : isFinite q = true) :
    RoundsTo (fmul p q) (quanta p * quanta q) (2 ^ 1074) := by
  obtain ⟨-, -, -, -, hne, heq, -⟩ := operationsRoundTheExactResultOnce p q hp hq
  by_cases h : quanta p * quanta q = 0
  · exact ⟨_, by rw [heq h, h, Int.natAbs_zero, roundMag_zero], fun h0 => absurd h h0⟩
  · exact ⟨_, by rw [hne h, natAbs_two_pow], fun _ => by rw [decide_eq_decide, mul_two_pow_neg_iff]⟩

theorem roundsTo_fdiv {p q : Word} (hp : isFinite p = true) (hq : isFinite q = true) (hq0 : quanta q ≠ 0) :
    RoundsTo (fdiv p q) (quanta p * 2 ^ 1074) (quanta q) := by
  obtain ⟨-, -, -, -, -, -, hne, heq⟩ := operationsRoundTheExactResultOnce p q hp hq
  by_cases h : quanta p = 0
  · exact ⟨_, by rw [heq h hq0, h, zero_mul, Int.natAbs_zero, roundMag_zero], fun h0 => absurd (by rw [h, zero_mul]) h0⟩
  · exact ⟨_, hne h hq0, fun _ => by rw [decide_eq_decide, mul_right_comm, mul_two_pow_neg_iff]⟩

/-! What one rounding gives: exact results, the nearest word, the overflow. -/

theorem RoundsTo.lowBits_eq {r : Word} {num den : ℤ} (h : RoundsTo r num den) :
    lowBits r = roundMag num.natAbs den.natAbs := by
  obtain ⟨neg, rfl, -⟩ := h
  exact lowBits_packWord neg ((roundMag_le_infMag _ _).trans_lt (by decide))

theorem RoundsTo.signBit_eq {r : Word} {num den : ℤ} (h : RoundsTo r num den) (hnum : num ≠ 0) :
    signBit r = decide (num * den < 0) := by
  obtain ⟨neg, rfl, hneg⟩ := h
  rw [signBit_packWord neg ((roundMag_le_infMag _ _).trans_lt (by decide)), hneg hnum]

/-- The result's value never has the sign opposite to the exact value's. -/
theorem RoundsTo.same_sign {r : Word} {num den : ℤ} (h : RoundsTo r num den) : 0 ≤ num * (den * quanta r) := by
  by_cases h0 : num = 0
  · simp [h0]
  rw [← mul_assoc, quanta, h.signBit_eq h0]
  by_cases hs : num * den < 0
  · simpa [hs] using mul_nonpos_of_nonpos_of_nonneg hs.le (Int.natCast_nonneg (magQuanta r))
  · simpa [hs] using mul_nonneg (not_lt.mp hs) (Int.natCast_nonneg (magQuanta r))

theorem abs_quanta (w : Word) : |quanta w| = magValue (lowBits w) := by
  rw [Int.abs_eq_natAbs, natAbs_quanta, magQuanta_eq_magValue]

/-- An exact value that is a finite word's is returned. -/
theorem RoundsTo.exact {r v : Word} {num den : ℤ} (h : RoundsTo r num den) (hden : den ≠ 0)
    (hv : isFinite v = true) (hnum : num = quanta v * den) : quanta r = quanta v := by
  have hlow : lowBits r = lowBits v := by
    rw [h.lowBits_eq, hnum, Int.natAbs_mul, natAbs_quanta, magQuanta_eq_magValue, Nat.mul_comm]
    exact roundMag_mul_magValue (Int.natAbs_pos.mpr hden) ((isFinite_iff v).mp hv)
  have habs : |quanta r| = |quanta v| := by rw [abs_quanta, abs_quanta, hlow]
  refine (abs_eq_abs.mp habs).elim id fun hopp => ?_
  have hsign : 0 ≤ -(quanta v * den) ^ 2 := by
    calc 0 ≤ num * (den * quanta r) := h.same_sign
      _ = -(quanta v * den) ^ 2 := by rw [hnum, hopp]; ring
  have hzero : quanta v * den = 0 := pow_eq_zero_iff two_ne_zero |>.mp (le_antisymm (by omega) (sq_nonneg _))
  rw [hopp, (mul_eq_zero.mp hzero).resolve_right hden, neg_zero]

/-- Settles O39: the exact result is a magnitude, which rounds to itself, under its own sign. -/
theorem representableResultsAreExact : Obligations.RepresentableResultsAreExact := by
  intro p q r hp hq hr
  refine ⟨fun h => ?_, fun h => ?_, fun h => ?_, fun hq0 h => ?_⟩
  · exact (roundsTo_fadd hp hq).exact one_ne_zero hr (by rw [h, mul_one])
  · exact (roundsTo_fsub hp hq).exact one_ne_zero hr (by rw [h, mul_one])
  · exact (roundsTo_fmul hp hq).exact (by positivity) hr h
  · have hq0' : quanta q ≠ 0 := fun h0 => by simp [(feq0_iff_quanta q).mpr h0] at hq0
    exact (roundsTo_fdiv hp hq hq0').exact hq0' hr h

/-- Two numbers of one sign are as far apart as their magnitudes. -/
theorem abs_sub_eq_of_mul_nonneg {a b : ℤ} (h : 0 ≤ a * b) : |a - b| = |(|a| - |b|)| := by
  rcases mul_nonneg_iff.mp h with ⟨ha, hb⟩ | ⟨ha, hb⟩
  · rw [abs_of_nonneg ha, abs_of_nonneg hb]
  · rw [abs_of_nonpos ha, abs_of_nonpos hb, neg_sub_neg, abs_sub_comm]

/-- The last bit of a word is that of its low bits. -/
theorem getLsbD_zero_eq (w : Word) : w.getLsbD 0 = decide (lowBits w % 2 = 1) := by
  have hw := toNat_eq_lowBits w
  rw [BitVec.getLsbD, Nat.testBit_zero, decide_eq_decide]
  split at hw <;> omega

theorem RoundsTo.nearest {r : Word} {num den : ℤ} (h : RoundsTo r num den) (hden : den ≠ 0) (hr : isFinite r = true)
    (v : Word) : |num - den * quanta r| ≤ |num - den * quanta v| ∧
      (|num - den * quanta r| = |num - den * quanta v| → quanta v ≠ quanta r → r.getLsbD 0 = false) := by
  have hdist : |num - den * quanta r| = |(num.natAbs : ℤ) - den.natAbs * magValue (lowBits r)| := by
    rw [abs_sub_eq_of_mul_nonneg h.same_sign, abs_mul, abs_quanta, Int.abs_eq_natAbs num, Int.abs_eq_natAbs den]
  have hv : |(num.natAbs : ℤ) - den.natAbs * magValue (lowBits v)| ≤ |num - den * quanta v| := by
    rw [← abs_quanta, ← Int.abs_eq_natAbs, ← Int.abs_eq_natAbs, ← abs_mul]
    exact abs_abs_sub_abs_le num (den * quanta v)
  obtain ⟨hle, heven⟩ := roundMag_nearest num.natAbs (Int.natAbs_pos.mpr hden)
    (by rw [← h.lowBits_eq]; exact (isFinite_iff r).mp hr) (lowBits v)
  rw [← h.lowBits_eq] at hle heven
  refine ⟨hdist.trans_le (hle.trans hv), fun htie hne => ?_⟩
  suffices hmod : lowBits r % 2 = 0 by rw [getLsbD_zero_eq, hmod]; decide
  by_cases hlow : lowBits v = lowBits r
  · have hopp : quanta v = -quanta r :=
      (abs_eq_abs.mp (by rw [abs_quanta, abs_quanta, hlow])).resolve_left hne
    have hr0 : den * quanta r ≠ 0 := mul_ne_zero hden fun h0 => hne (by rw [hopp, h0, neg_zero])
    have hnum : num = 0 := by
      rw [hopp, mul_neg] at htie
      rcases abs_eq_abs.mp htie with h | h <;> omega
    rw [h.lowBits_eq, hnum, Int.natAbs_zero, roundMag_zero]
  · exact heven (le_antisymm hle (hv.trans_eq (htie.symm.trans hdist))) hlow

theorem RoundsTo.lowBits_eq_infMag_iff {r : Word} {num den : ℤ} (h : RoundsTo r num den) (hden : den ≠ 0) :
    lowBits r = infMag ↔ (2 ^ 54 - 1) * 2 ^ 2044 * |den| ≤ |num| := by
  have hcast : ((2 ^ 54 - 1) * 2 ^ 2044 : ℤ) = (((2 ^ 54 - 1) * 2 ^ 2044 : ℕ) : ℤ) := by
    rw [Nat.cast_mul, Nat.cast_pow 2 2044]
    rfl
  rw [h.lowBits_eq, roundMag_eq_infMag_iff _ (Int.natAbs_pos.mpr hden), hcast, Int.abs_eq_natAbs, Int.abs_eq_natAbs,
    ← Nat.cast_mul, Nat.cast_le]

theorem RoundsTo.isFinite_eq_false_iff {r : Word} {num den : ℤ} (h : RoundsTo r num den) :
    isFinite r = false ↔ lowBits r = infMag := by
  have hle : lowBits r ≤ infMag := h.lowBits_eq.trans_le (roundMag_le_infMag _ _)
  rw [Bool.eq_false_iff, ne_eq, isFinite_iff, not_lt, hle.ge_iff_eq]

/-- Settles O55: each result is one rounding (O54), and a rounding is nearest, sign and overflow included. -/
theorem resultsAreNearestToTheExactValue : Obligations.ResultsAreNearestToTheExactValue := by
  intro p q hp hq r num den hr
  obtain ⟨h, hden⟩ : RoundsTo r num den ∧ den ≠ 0 := by
    rcases hr with ⟨rfl, rfl, rfl⟩ | ⟨rfl, rfl, rfl⟩ | ⟨rfl, rfl, rfl⟩ | ⟨rfl, hq0, rfl, rfl⟩
    · exact ⟨roundsTo_fadd hp hq, one_ne_zero⟩
    · exact ⟨roundsTo_fsub hp hq, one_ne_zero⟩
    · exact ⟨roundsTo_fmul hp hq, by positivity⟩
    · exact ⟨roundsTo_fdiv hp hq hq0, hq0⟩
  refine ⟨fun hfin v _ => h.nearest hden hfin v, fun hinf => ?_, fun hge => ?_⟩
  · have hlow := h.isFinite_eq_false_iff.mp hinf
    have hnum : num ≠ 0 := by
      rintro rfl
      rw [h.lowBits_eq, Int.natAbs_zero, roundMag_zero] at hlow
      cases hlow
    exact ⟨(isInf_iff r).mpr hlow, h.signBit_eq hnum, (h.lowBits_eq_infMag_iff hden).mp hlow⟩
  · exact h.isFinite_eq_false_iff.mpr ((h.lowBits_eq_infMag_iff hden).mpr hge)

end Sys2Proof.Machine
end

section
/-! PROOF. Streams of samples in the histories, and sums of zeros in the fold. -/

namespace Sys2Proof.Machine

/-- A zero of either sign added to +0.0 gives +0.0. -/
theorem fadd_posZero_of_feq0 {z : Word} (hz : feq0 z = true) : fadd posZero z = posZero := by
  have hsum : quanta posZero + quanta z = 0 := by
    rw [(feq0_iff_quanta z).mp hz, (feq0_iff_quanta posZero).mp (by decide), add_zero]
  obtain ⟨-, hzero, -⟩ := operationsRoundTheExactResultOnce posZero z (by decide) (isFinite_of_feq0 hz)
  rw [hzero hsum, show signBit posZero = false by decide, Bool.false_and]
  decide

/-- Settles O29, by induction on the number of terms: each of them leaves the sum at +0.0. -/
theorem sumOfZerosIsPositiveZero : Obligations.SumOfZerosIsPositiveZero := by
  intro w h lo n hzero
  induction n with
  | zero => exact dot_zero w h lo
  | succ n ih =>
    rw [dot_succ, ih fun t ht => hzero t (Nat.lt_succ_of_lt ht)]
    exact fadd_posZero_of_feq0 (hzero n n.lt_succ_self)

/-- Feeding samples shifts them into XH in order, and the outputs read into YH. -/
theorem feed_histories (xs : List Word) {c : Arch} (hc : c.configured = true) :
    (feed xs c).1.xh = xs.foldl (fun f x => shiftIn x f) c.xh ∧
      (feed xs c).1.yh = (feed xs c).2.foldl (fun f y => shiftIn y f) c.yh := by
  induction xs generalizing c with
  | nil => exact ⟨rfl, rfl⟩
  | cons x xs ih =>
    obtain ⟨hx, hy⟩ := ih ((filterEval_configured x c).trans hc)
    rw [feed_cons x xs hc]
    exact ⟨by rw [hx, filterEval_xh, List.foldl_cons], by rw [hy, filterEval_yh, List.foldl_cons]⟩

/-- A file that words are shifted into from zero holds them newest first, and +0.0 past the oldest. The list stands
newest first. -/
theorem getElem_foldr_shiftIn (ws : List Word) {i : Nat} (hi : i < 20) :
    (ws.foldr shiftIn zeroFile)[i] = ws[i]?.getD posZero := by
  induction ws generalizing i with
  | nil => simp
  | cons w ws ih =>
    cases i with
    | zero => exact shiftIn_zero w _
    | succ i => exact (shiftIn_succ w _ hi).trans (ih (Nat.lt_of_succ_lt hi))

/-- Settles O26: both histories are files that words were shifted into from zero. -/
theorem historiesHoldTheLastTwenty : Obligations.HistoriesHoldTheLastTwenty := by
  intro c xs hc hx hy i
  obtain ⟨hxh, hyh⟩ := feed_histories xs hc
  rw [hx, List.foldl_eq_foldr_reverse] at hxh
  rw [hy, List.foldl_eq_foldr_reverse] at hyh
  rw [hxh, hyh]
  exact ⟨getElem_foldr_shiftIn xs.reverse i.isLt, getElem_foldr_shiftIn (feed xs c).2.reverse i.isLt⟩

end Sys2Proof.Machine
end

section
/-! PROOF. The writers of each element of the state: what an operation, a transaction or a step leaves of it. -/

namespace Sys2Proof.Machine

section
variable {i : Instr} {c d : Arch} {q : Response}

theorem Effect.b_frame (h : Effect i c d q) :
    d.b = c.b ∨ i = .release ∨ (c.configured = false ∧ ∃ n w, i = .wrB n w) := by
  cases h with
  | weightB n w _ hi hc => exact .inr (.inr ⟨hc, n, w, hi⟩)
  | released hi => exact .inr (.inl hi)
  | _ => exact .inl rfl

theorem Effect.a_frame (h : Effect i c d q) :
    d.a = c.a ∨ i = .release ∨ (c.configured = false ∧ ∃ n w, i = .wrA n w) := by
  cases h with
  | weightA n w _ hi hc => exact .inr (.inr ⟨hc, n, w, hi⟩)
  | released hi => exact .inr (.inl hi)
  | _ => exact .inl rfl

theorem Effect.counts_frame (h : Effect i c d q) :
    (d.numIn = c.numIn ∧ d.numOut = c.numOut) ∨ i = .release ∨ (c.configured = false ∧ ∃ w, i = .wrCfg w) := by
  cases h with
  | counts w hi hc => exact .inr (.inr ⟨hc, w, hi⟩)
  | released hi => exact .inr (.inl hi)
  | _ => exact .inl ⟨rfl, rfl⟩

/-- CONFIGURE writes CONFIGURED and the histories only while unconfigured. -/
theorem Effect.configured_frame (h : Effect i c d q) :
    d.configured = c.configured ∨ i = .release ∨ (i = .configure ∧ c.configured = false) := by
  cases h with
  | configured hi hc => exact .inr (.inr ⟨hi, hc⟩)
  | released hi => exact .inr (.inl hi)
  | _ => exact .inl rfl

theorem Effect.histories_frame (h : Effect i c d q) :
    (d.xh = c.xh ∧ d.yh = c.yh) ∨ i = .release ∨ (i = .configure ∧ c.configured = false) ∨
      (c.configured = true ∧ ∃ x, i = .filter x) := by
  cases h with
  | configured hi hc => exact .inr (.inr (.inl ⟨hi, hc⟩))
  | released hi => exact .inr (.inl hi)
  | filtered x hi hc => exact .inr (.inr (.inr ⟨hc, x, hi⟩))
  | _ => exact .inl ⟨rfl, rfl⟩

theorem Effect.lastErr_frame (h : Effect i c d q) :
    d.lastErr = c.lastErr ∨ i = .release ∨ i = .clearErr ∨ q = ⟨true, 0#64⟩ := by
  cases h with
  | rejected e => exact .inr (.inr (.inr rfl))
  | released hi => exact .inr (.inl hi)
  | cleared hi => exact .inr (.inr (.inl hi))
  | _ => exact .inl rfl

/-- The lock (R106): what stays configured keeps its configuration. -/
theorem Effect.configuration_fixed (h : Effect i c d q) (hc : c.configured = true) (hd : d.configured = true) :
    d.b = c.b ∧ d.a = c.a ∧ d.numIn = c.numIn ∧ d.numOut = c.numOut := by
  cases h with
  | released => exact absurd hd Bool.false_ne_true
  | counts _ _ ho | weightB _ _ _ _ ho | weightA _ _ _ _ ho =>
    exact absurd (ho.symm.trans hc) Bool.false_ne_true
  | _ => exact ⟨rfl, rfl, rfl, rfl⟩

end

/-- What exec answers is one of the operation's effects, with the pending events kept. -/
theorem exec_next {i : Instr} {s t : State} (h : exec i s = .next t) :
    ∃ q, Effect i s.arch t.arch q ∧ t.rsp = some q ∧ t.pending = s.pending := by
  obtain ⟨d, q, hx, he⟩ := exec_effect i s
  obtain rfl := Host.Outcome.next.inj (hx.symm.trans h)
  exact ⟨q, he, rfl, rfl⟩

/-- A step is idle, resets CORE, or performs the request offered first. -/
theorem step_arch_cases {s t : State} (h : step s = .next t) :
    t.arch = s.arch ∨ t.arch = Arch.reset ∨
      ∃ r rest, s.pending = .request r :: rest ∧ t.arch = (perform r s.arch).1 := by
  cases hp : s.pending with
  | nil =>
    obtain rfl := Host.Outcome.next.inj ((step_idle hp).symm.trans h)
    exact .inl rfl
  | cons ev rest =>
    cases ev with
    | request r =>
      obtain ⟨harch, -, -⟩ := step_request_next hp h
      exact .inr (.inr ⟨r, rest, rfl, harch⟩)
    | reset =>
      obtain rfl := Host.Outcome.next.inj ((step_reset hp).symm.trans h)
      exact .inr (.inl rfl)
    | resetDuring r =>
      obtain rfl := Host.Outcome.next.inj ((step_resetDuring hp).symm.trans h)
      exact .inr (.inl rfl)

/-- Settles O44: each element has its frame under the operation's effect. -/
theorem eachElementHasItsWriters : Obligations.EachElementHasItsWriters := by
  intro i s t h
  obtain ⟨q, he, hrsp, hpending⟩ := exec_next h
  refine ⟨hpending, he.b_frame.resolve_left, he.a_frame.resolve_left,
    fun hne => he.counts_frame.resolve_left (not_and_or.mpr hne), fun hne => ?_, fun hne => ?_, fun hne => ?_⟩
  · exact (he.configured_frame.resolve_left hne).imp_right And.left
  · exact (he.histories_frame.resolve_left (not_and_or.mpr hne)).imp_right (Or.imp_left And.left)
  · exact (he.lastErr_frame.resolve_left hne).imp_right (Or.imp_right fun hq => hrsp.trans (congrArg some hq))

/-- Settles O42: a reset ends unconfigured, and a transaction is a rejection or keeps the lock. -/
theorem configurationIsFixedWhileConfigured : Obligations.ConfigurationIsFixedWhileConfigured := by
  intro s t hstep hs ht
  rcases step_arch_cases hstep with hidle | hreset | ⟨r, -, -, hperform⟩
  · simp [hidle]
  · simp [hreset] at ht
  · rcases perform_effect r s.arch with ⟨e, -, hrejected⟩ | ⟨i, -, he⟩
    · simp [hperform, hrejected]
    · rw [hperform] at ht ⊢
      exact he.configuration_fixed hs ht

end Sys2Proof.Machine
end

section
/-! PROOF. The invariant of CORE's state, at reset and across every step. -/

namespace Sys2Proof.Machine

/-- Every code that an error raises is one of the eight of R141. -/
theorem errByte_mem_raised (e : ErrCode) :
    errByte e ∈ [0x01#8, 0x02#8, 0x03#8, 0x04#8, 0x10#8, 0x11#8, 0x20#8, 0x21#8] := by
  cases e <;> decide

theorem legalErr_errByte (e : ErrCode) : LegalErr (errByte e) :=
  List.mem_cons_of_mem _ (errByte_mem_raised e)

theorem legalErr_errNone : LegalErr errNone := List.mem_cons_self

/-- The invariant asks while unconfigured only for zero histories and a legal code. -/
theorem Arch.Inv.of_unconfigured {c : Arch} (hc : c.configured = false) (hh : c.xh = zeroFile ∧ c.yh = zeroFile)
    (he : LegalErr c.lastErr) : c.Inv :=
  ⟨fun h => absurd (hc.symm.trans h) Bool.false_ne_true, fun _ => hh, he⟩

theorem Arch.Inv.withLastErr {c : Arch} (h : c.Inv) {e : Byte} (he : LegalErr e) : (c.withLastErr e).Inv := by
  obtain ⟨hcfg, hhist, -⟩ := h
  exact ⟨hcfg, hhist, he⟩

theorem Arch.reset_inv : Arch.reset.Inv := .of_unconfigured rfl ⟨rfl, rfl⟩ legalErr_errNone

/-- Every effect of an operation keeps the invariant: CONFIGURE has checked the counts and A[0], the writes that the lock
guards leave CORE unconfigured with its histories zero, and FILTER leaves the configuration. -/
theorem Effect.keeps_inv {i : Instr} {c d : Arch} {q : Response} (h : Effect i c d q) (hinv : c.Inv) : d.Inv := by
  obtain ⟨hcfg, hhist, hcode⟩ := id hinv
  cases h with
  | rejected e => exact hinv.withLastErr (legalErr_errByte e)
  | read => exact hinv
  | counts _ _ hc | weightB _ _ _ _ hc | weightA _ _ _ _ hc => exact .of_unconfigured hc (hhist hc) hcode
  | configured _ _ hk => exact ⟨fun _ => legal_of_cfgCheck hk, fun _ => ⟨rfl, rfl⟩, hcode⟩
  | released => exact .of_unconfigured rfl ⟨rfl, rfl⟩ legalErr_errNone
  | cleared => exact hinv.withLastErr legalErr_errNone
  | filtered x _ hc =>
    exact ⟨fun _ => hcfg hc, fun ho => absurd (ho.symm.trans hc) Bool.false_ne_true, hcode⟩

theorem perform_keeps_inv (r : Request) {c : Arch} (h : c.Inv) : (perform r c).1.Inv := by
  rcases perform_effect r c with ⟨e, -, hrejected⟩ | ⟨i, -, he⟩
  · rw [hrejected]
    exact h.withLastErr (legalErr_errByte e)
  · exact he.keeps_inv h

/-- Settles O40: at reset CORE is unconfigured with zero histories and no error. -/
theorem resetMeetsTheInvariant : Obligations.ResetMeetsTheInvariant := Arch.reset_inv

/-- Settles O41: a step is idle, a reset or a transaction, and each of them keeps the invariant. -/
theorem stepKeepsTheInvariant : Obligations.StepKeepsTheInvariant := by
  intro s t hinv hstep
  rcases step_arch_cases hstep with hidle | hreset | ⟨r, -, -, hperform⟩
  · rwa [hidle]
  · rw [hreset]
    exact Arch.reset_inv
  · rw [hperform]
    exact perform_keeps_inv r hinv

end Sys2Proof.Machine
end

section
/-! PROOF. Responses: which transactions are rejected, what the accepted ones answer, and that the port has no part in it. -/

namespace Sys2Proof.Machine

theorem readOnlyOp_of_readOp {reg : Reg} {i : Instr} (h : reg.readOp = .ok i) : readOnlyOp i = true := by
  cases reg <;> cases h <;> rfl

theorem readOnlyOp_of_writeOp {reg : Reg} {w : Word} {i : Instr} (h : reg.writeOp w = .ok i) :
    readOnlyOp i = false := by
  cases reg <;> cases h <;> rfl

/-- The bit W tells reads from writes (R60, R63). -/
theorem readOnlyOp_of_decodeRequest {r : Request} {i : Instr} (h : decodeRequest r = .ok i) :
    readOnlyOp i = !r.write := by
  unfold decodeRequest at h
  split at h
  · cases h
  · cases hw : r.write with
    | true => exact readOnlyOp_of_writeOp (by simpa [hw] using h)
    | false => exact readOnlyOp_of_readOp (by simpa [hw] using h)

section
variable {i : Instr} {c d : Arch} {q : Response}

/-- An operation answers ERR only as a rejection (R142). -/
theorem Effect.of_err (h : Effect i c d q) (hq : q.err = true) :
    ∃ e, d = c.withLastErr (errByte e) ∧ q = ⟨true, 0#64⟩ := by
  cases h with
  | rejected e => exact ⟨e, rfl, rfl⟩
  | _ => exact absurd hq Bool.false_ne_true

/-- Only a read answers with data. -/
theorem Effect.rdata_of_write (h : Effect i c d q) (hi : readOnlyOp i = false) : q.rdata = 0#64 := by
  cases h with
  | read _ hr => exact absurd (hi.symm.trans hr) Bool.false_ne_true
  | _ => rfl

/-- A read that is accepted leaves CORE as it was. -/
theorem Effect.arch_of_read (h : Effect i c d q) (hi : readOnlyOp i = true) (hq : q.err = false) : d = c := by
  cases h with
  | rejected => exact absurd hq.symm Bool.false_ne_true
  | read => rfl
  | counts _ hop | weightB _ _ _ hop | weightA _ _ _ hop | configured hop | released hop | cleared hop
  | filtered _ hop =>
    rw [hop] at hi
    exact absurd hi Bool.false_ne_true

end

section
variable {r : Request} {c : Arch}

/-- A transaction that answers ERR changed LAST_ERR alone, whoever rejected it (R142). -/
theorem perform_of_err (h : (perform r c).2.err = true) :
    ∃ e, perform r c = (c.withLastErr (errByte e), ⟨true, 0#64⟩) := by
  rcases perform_effect r c with ⟨e, -, hrejected⟩ | ⟨i, -, he⟩
  · exact ⟨e, hrejected⟩
  · obtain ⟨e, hd, hq⟩ := he.of_err h
    exact ⟨e, Prod.ext hd hq⟩

/-- A transaction that answers OKAY performed the operation decoded. -/
theorem perform_of_okay (h : (perform r c).2.err = false) :
    ∃ i, decodeRequest r = .ok i ∧ Effect i c (perform r c).1 (perform r c).2 := by
  refine (perform_effect r c).resolve_left ?_
  rintro ⟨e, -, hrejected⟩
  simp [hrejected] at h

/-- R104's assignments name every element of CORE's state. -/
theorem released_eq_reset (c : Arch) : released c = Arch.reset := rfl

theorem perform_of_clearErr (hd : decodeRequest r = .ok .clearErr) :
    perform r c = (c.withLastErr errNone, ⟨false, 0#64⟩) :=
  perform_of_exec hd rfl

theorem perform_of_release (hd : decodeRequest r = .ok .release) :
    perform r c = (Arch.reset, ⟨false, 0#64⟩) :=
  perform_of_exec hd rfl

/-- CLEAR_ERR and RELEASE alone write LAST_ERR without an error. -/
theorem perform_lastErr_of_okay (h : (perform r c).2.err = false) (hclear : decodeRequest r ≠ .ok .clearErr)
    (hrelease : decodeRequest r ≠ .ok .release) : (perform r c).1.lastErr = c.lastErr := by
  obtain ⟨i, hd, he⟩ := perform_of_okay h
  rcases he.lastErr_frame with hkept | rfl | rfl | hq
  · exact hkept
  · exact absurd hd hrelease
  · exact absurd hd hclear
  · simp [hq] at h

end

/-- Settles O45: an ERR is a rejection, and what is answered OKAY is the operation's effect. -/
theorem responsesAndLastErr : Obligations.ResponsesAndLastErr := by
  intro s t r rest q hpending hstep hrsp
  obtain ⟨harch, hanswer, -⟩ := step_request_next hpending hstep
  obtain rfl : (perform r s.arch).2 = q := Option.some.inj (hanswer.symm.trans hrsp)
  rw [harch]
  refine ⟨fun herr => ?_, fun hok => ⟨?_, perform_lastErr_of_okay hok, fun hw => ?_, fun hw => ?_⟩⟩
  · obtain ⟨e, hrejected⟩ := perform_of_err herr
    rw [hrejected]
    exact ⟨rfl, rfl, errByte_mem_raised e⟩
  · rintro (hd | hd)
    · rw [perform_of_clearErr hd, Arch.withLastErr_lastErr]
    · rw [perform_of_release hd, Arch.reset_lastErr]
  · obtain ⟨i, hd, he⟩ := perform_of_okay hok
    exact he.rdata_of_write (by rw [readOnlyOp_of_decodeRequest hd, hw, Bool.not_true])
  · obtain ⟨i, hd, he⟩ := perform_of_okay hok
    exact he.arch_of_read (by rw [readOnlyOp_of_decodeRequest hd, hw, Bool.not_false]) hok

/-- Settles O46: both steps give what `perform` gives on CORE's state. -/
theorem portContentsDoNotMatter : Obligations.PortContentsDoNotMatter := by
  intro s s' t t' r rest rest' harch hp hp' hstep hstep'
  obtain ⟨hd, hq, -⟩ := step_request_next hp hstep
  obtain ⟨hd', hq', -⟩ := step_request_next hp' hstep'
  rw [hd, hd', hq, hq', harch]
  exact ⟨rfl, rfl⟩

end Sys2Proof.Machine
end

section
/-! PROOF. The latest output in YH[0], under transactions that are no FILTER and no RELEASE. -/

namespace Sys2Proof.Machine

theorem perform_keeps_output {r : Request} {c : Arch} (hc : c.configured = true) (hfilter : ¬ DecodesToFilter r)
    (hrelease : decodeRequest r ≠ .ok .release) :
    (perform r c).1.configured = true ∧ (perform r c).1.yh = c.yh := by
  rcases perform_effect r c with ⟨e, -, hrejected⟩ | ⟨i, hd, he⟩
  · rw [hrejected]
    exact ⟨hc, rfl⟩
  · have hi : i ≠ .release := fun hi => hrelease (hi ▸ hd)
    refine ⟨?_, ?_⟩
    · rcases he.configured_frame with hkept | hop | ⟨-, ho⟩
      · exact hkept.trans hc
      · exact absurd hop hi
      · exact absurd (ho.symm.trans hc) Bool.false_ne_true
    · rcases he.histories_frame with ⟨-, hkept⟩ | hop | ⟨-, ho⟩ | ⟨-, x, hop⟩
      · exact hkept
      · exact absurd hop hi
      · exact absurd (ho.symm.trans hc) Bool.false_ne_true
      · exact absurd ⟨x, hop ▸ hd⟩ hfilter

theorem performAll_keeps_output (rs : List Request) {c : Arch} (hc : c.configured = true)
    (h : ∀ r ∈ rs, ¬ DecodesToFilter r ∧ decodeRequest r ≠ .ok .release) : (performAll rs c).1.yh = c.yh := by
  induction rs generalizing c with
  | nil => rfl
  | cons r rs ih =>
    obtain ⟨⟨hfilter, hrelease⟩, hrest⟩ := List.forall_mem_cons.mp h
    obtain ⟨hc', hyh⟩ := perform_keeps_output hc hfilter hrelease
    exact (ih hc' hrest).trans hyh

/-- Settles O33: FILTER puts its output into YH[0], and the transactions after it leave YH. -/
theorem outputStandsUntilTheNextFilter : Obligations.OutputStandsUntilTheNextFilter := by
  intro c x between hc hbetween
  have hyh := performAll_keeps_output between ((filterEval_configured x c).trans hc) hbetween
  simp only [perform_filter x hc, perform_rdYOut, hyh, filterEval_yh, shiftIn_zero]

end Sys2Proof.Machine
end

section
/-! PROOF. The reads: every element of CORE's state stands at an address. -/

namespace Sys2Proof.Machine

/-! The addresses and the control words as numbers. -/

theorem toNat_fileAddr (file : BitVec 4) (i : TapIndex) :
    (fileAddr file i).toNat = 0x100 * file.toNat + 8 * i.toNat := by
  have hi := i.isLt
  rw [fileAddr, BitVec.toNat_append, BitVec.toNat_append, ← Nat.shiftLeft_add_eq_or_of_lt hi,
    ← Nat.shiftLeft_add_eq_or_of_lt (by decide)]
  simp only [Nat.shiftLeft_eq, BitVec.toNat_ofNat]
  omega

theorem toNat_cfgWord (c : Arch) : (cfgWord c).toNat = 0x100 * c.numOut.toNat + c.numIn.toNat := by
  rw [cfgWord, BitVec.toNat_append, BitVec.toNat_append, ← Nat.shiftLeft_add_eq_or_of_lt c.numOut.isLt,
    ← Nat.shiftLeft_add_eq_or_of_lt c.numIn.isLt]
  simp only [Nat.shiftLeft_eq, BitVec.toNat_ofNat]
  omega

theorem toNat_statusWord (c : Arch) :
    (statusWord c).toNat = 0x100 * c.lastErr.toNat + c.configured.toNat := by
  rw [statusWord, BitVec.toNat_append, BitVec.toNat_append, BitVec.toNat_append,
    ← Nat.shiftLeft_add_eq_or_of_lt c.lastErr.isLt, ← Nat.shiftLeft_add_eq_or_of_lt (0#7).isLt,
    ← Nat.shiftLeft_add_eq_or_of_lt (BitVec.isLt _), BitVec.toNat_ofBool]
  simp only [Nat.shiftLeft_eq, BitVec.toNat_ofNat]
  omega

/-- CFG shows both counts. -/
theorem cfgWord_inj {c d : Arch} (h : cfgWord c = cfgWord d) : c.numIn = d.numIn ∧ c.numOut = d.numOut := by
  have hn := congrArg BitVec.toNat h
  rw [toNat_cfgWord, toNat_cfgWord] at hn
  constructor <;> apply BitVec.eq_of_toNat_eq <;> omega

/-- STATUS shows CONFIGURED and LAST_ERR. -/
theorem statusWord_inj {c d : Arch} (h : statusWord c = statusWord d) :
    c.configured = d.configured ∧ c.lastErr = d.lastErr := by
  have hn := congrArg BitVec.toNat h
  have hc := c.configured.toNat_lt
  have hd := d.configured.toNat_lt
  rw [toNat_statusWord, toNat_statusWord] at hn
  have hconf : BitVec.ofBool c.configured = BitVec.ofBool d.configured := by
    apply BitVec.eq_of_toNat_eq
    rw [BitVec.toNat_ofBool, BitVec.toNat_ofBool]
    omega
  exact ⟨BitVec.ofBool_eq_iff_eq.mp hconf, BitVec.eq_of_toNat_eq (by omega)⟩

/-! The decoder at the address of an entry. -/

@[simp] theorem toNat_indexOf (i : Fin 20) : (indexOf i).toNat = i.val := by
  have hi := i.isLt
  rw [BitVec.toNat_ofNat]
  omega

theorem entryAddr_eq_fileAddr (file : BitVec 4) (i : Fin 20) :
    entryAddr (0x100 * file.toNat) i = fileAddr file (indexOf i) := by
  have hfile := file.isLt
  have hi := i.isLt
  apply BitVec.eq_of_toNat_eq
  rw [toNat_fileAddr, toNat_indexOf, BitVec.toNat_ofNat]
  omega

/-- An entry's address is aligned, its bits 11:8 are the file and its bits 7:3 the index (R63, R65). -/
theorem decodeReg_fileAddr {file : BitVec 4} (hfile : file ≠ 0#4) (i : TapIndex) :
    decodeReg (fileAddr file i) = indexedReg file i := by
  have hf := file.isLt
  have hi := i.isLt
  have haddr := toNat_fileAddr file i
  have hlow : (fileAddr file i).extractLsb' 0 3 = 0#3 := by
    apply BitVec.eq_of_toNat_eq
    rw [BitVec.extractLsb'_toNat, Nat.shiftRight_eq_div_pow, haddr, BitVec.toNat_ofNat]
    omega
  have hhigh : (fileAddr file i).extractLsb' 8 4 = file := by
    apply BitVec.eq_of_toNat_eq
    rw [BitVec.extractLsb'_toNat, Nat.shiftRight_eq_div_pow, haddr]
    omega
  have hindex : (fileAddr file i).extractLsb' 3 5 = i := by
    apply BitVec.eq_of_toNat_eq
    rw [BitVec.extractLsb'_toNat, Nat.shiftRight_eq_div_pow, haddr]
    omega
  simp [decodeReg, hlow, hhigh, hindex, hfile]

theorem decodeReg_entryAddr {file : BitVec 4} (hfile : file ≠ 0#4) (i : Fin 20) :
    decodeReg (entryAddr (0x100 * file.toNat) i) = indexedReg file (indexOf i) := by
  rw [entryAddr_eq_fileAddr, decodeReg_fileAddr hfile]

theorem decodeRequest_readAt {addr : Addr} {reg : Reg} (h : decodeReg addr = .ok reg) (wdata : Word) :
    decodeRequest (readAt addr wdata) = reg.readOp := by
  simp [decodeRequest, h]

theorem indexOf_legal (i : Fin 20) : ¬ (indexOf i).toNat > 19 := by
  rw [toNat_indexOf]
  omega

section
variable (i : Fin 20)

theorem decodeReg_entryAddr_b : decodeReg (entryAddr 0x100 i) = .ok (.b (indexOf i)) :=
  (decodeReg_entryAddr (file := 1#4) (by decide) i).trans (by rw [indexedReg, if_neg (indexOf_legal i)]; rfl)

theorem decodeReg_entryAddr_a : decodeReg (entryAddr 0x200 i) = .ok (.a (indexOf i)) :=
  (decodeReg_entryAddr (file := 2#4) (by decide) i).trans (by rw [indexedReg, if_neg (indexOf_legal i)]; rfl)

theorem decodeReg_entryAddr_xh : decodeReg (entryAddr 0x300 i) = .ok (.xh (indexOf i)) :=
  (decodeReg_entryAddr (file := 3#4) (by decide) i).trans (by rw [indexedReg, if_neg (indexOf_legal i)]; rfl)

theorem decodeReg_entryAddr_yh : decodeReg (entryAddr 0x400 i) = .ok (.yh (indexOf i)) :=
  (decodeReg_entryAddr (file := 4#4) (by decide) i).trans (by rw [indexedReg, if_neg (indexOf_legal i)]; rfl)

end

/-! What the reads answer. -/

theorem readEntry_indexOf (f : TapFile) (i : Fin 20) (s : State) :
    readEntry f (indexOf i) s = .next (s.answered f[i]) := by
  rw [readEntry_of_lt ((toNat_indexOf i).trans_lt i.isLt)]
  simp only [toNat_indexOf]
  rfl

/-- A read that the decoder accepts shows the word that its operation answers. -/
theorem peek_of_read {addr : Addr} {i : Instr} {c : Arch} {v : Word} (hd : decodeRequest (readAt addr 0#64) = .ok i)
    (h : exec i (idleAt c) = .next ((idleAt c).answered v)) : peek c addr = some v := by
  have hp : perform (readAt addr 0#64) c = (c, ⟨false, v⟩) := perform_of_exec hd h
  simp [peek, hp]

section
variable (c : Arch) (i : Fin 20)

theorem peek_caps : peek c 0x000#12 = some capsWord := peek_of_read (i := .rdCaps) rfl rfl

theorem peek_cfg : peek c 0x008#12 = some (cfgWord c) := peek_of_read (i := .rdCfg) rfl rfl

theorem peek_status : peek c 0x010#12 = some (statusWord c) := peek_of_read (i := .rdStatus) rfl rfl

theorem peek_b : peek c (entryAddr 0x100 i) = some c.b[i] :=
  peek_of_read (decodeRequest_readAt (decodeReg_entryAddr_b i) _) (readEntry_indexOf c.b i _)

theorem peek_a : peek c (entryAddr 0x200 i) = some c.a[i] :=
  peek_of_read (decodeRequest_readAt (decodeReg_entryAddr_a i) _) (readEntry_indexOf c.a i _)

theorem peek_xh : peek c (entryAddr 0x300 i) = some c.xh[i] :=
  peek_of_read (decodeRequest_readAt (decodeReg_entryAddr_xh i) _) (readEntry_indexOf c.xh i _)

theorem peek_yh : peek c (entryAddr 0x400 i) = some c.yh[i] :=
  peek_of_read (decodeRequest_readAt (decodeReg_entryAddr_yh i) _) (readEntry_indexOf c.yh i _)

end

/-- Two files whose twenty reads agree are equal. -/
theorem eq_of_entries {f g : TapFile} (h : ∀ i : Fin 20, some f[i] = some g[i]) : f = g :=
  Vector.ext fun i hi => Option.some.inj (h ⟨i, hi⟩)

/-- Settles O48: CFG, STATUS and the eighty entries show all eight elements. -/
theorem readsDetermineTheState : Obligations.ReadsDetermineTheState := by
  intro c d h
  have hcfg := h 0x008#12
  rw [peek_cfg, peek_cfg] at hcfg
  obtain ⟨hm, hk⟩ := cfgWord_inj (Option.some.inj hcfg)
  have hstatus := h 0x010#12
  rw [peek_status, peek_status] at hstatus
  obtain ⟨hc, he⟩ := statusWord_inj (Option.some.inj hstatus)
  have hb : c.b = d.b := eq_of_entries fun i => by rw [← peek_b, ← peek_b, h]
  have ha : c.a = d.a := eq_of_entries fun i => by rw [← peek_a, ← peek_a, h]
  have hx : c.xh = d.xh := eq_of_entries fun i => by rw [← peek_xh, ← peek_xh, h]
  have hy : c.yh = d.yh := eq_of_entries fun i => by rw [← peek_yh, ← peek_yh, h]
  exact Arch.eq_of_fields hb ha hm hk hc he hx hy

/-- Settles O16: each history's addresses decode to its reads, and a read of a legal entry answers its word. -/
theorem historyReads : Obligations.HistoryReads := by
  intro s i wdata
  refine ⟨⟨?_, readEntry_indexOf s.arch.xh i s⟩, ⟨?_, readEntry_indexOf s.arch.yh i s⟩, ?_, rfl⟩
  · exact decodeRequest_readAt (decodeReg_entryAddr_xh i) wdata
  · exact decodeRequest_readAt (decodeReg_entryAddr_yh i) wdata
  · exact decodeRequest_readAt (reg := .yOut) rfl wdata

theorem getElem_zeroFile (i : Fin 20) : zeroFile[i] = posZero := Vector.getElem_replicate i.isLt

/-- Settles O13: the files are zero files, CFG and CAPS read their words, and R104's assignments name every element. -/
theorem resetValues : Obligations.ResetValues := by
  refine ⟨fun i => ?_, rfl, rfl, rfl, rfl, ?_, ?_, fun s => ?_⟩
  · have hzero := getElem_zeroFile i
    exact ⟨hzero, hzero, hzero, hzero⟩
  · exact peek_cfg Arch.reset
  · exact peek_caps Arch.reset
  · exact ⟨s.complete (released s.arch) ⟨false, 0#64⟩, rfl, released_eq_reset s.arch⟩

end Sys2Proof.Machine
end

section
/-! PROOF. The port over a run of cycles: what it performs, and when the response comes. -/

namespace Sys2Proof.Machine

/-- From any port state and without reset, a run of cycles performs the requests it accepts, and the responses delivered,
with the one in flight after, are the one in flight before and theirs. -/
theorem portRun_performs (cycles : List PortIn) (p : PortState) (h : ∀ inp ∈ cycles, inp.rst = false) :
    (portRun cycles p).final.arch = (performAll (portRun cycles p).requests p.arch).1 ∧
      (portRun cycles p).responses ++ (portRun cycles p).final.phase.inFlight =
        p.phase.inFlight ++ (performAll (portRun cycles p).requests p.arch).2 := by
  induction cycles generalizing p with
  | nil => simp [portRun, performAll]
  | cons inp rest ih =>
    obtain ⟨hinp, hrest⟩ := List.forall_mem_cons.mp h
    obtain ⟨harch, hflight⟩ := port_cycle_performs p hinp
    obtain ⟨harch', hflight'⟩ := ih (portClock inp p) hrest
    simp only [portRun, performAll_append]
    rw [← harch]
    refine ⟨harch', ?_⟩
    rw [List.append_assoc, hflight', ← List.append_assoc, hflight, List.append_assoc]

/-- Settles O51: a run from a ready port, where no response is in flight before. -/
theorem portRefinesTransactions : Obligations.PortRefinesTransactions := by
  intro cycles c h
  exact portRun_performs cycles { arch := c, phase := .ready } h

/-- While the response is not due, each cycle without reset brings it one cycle nearer and changes nothing else. -/
theorem portRun_waiting (cycles : List PortIn) (c : Arch) (answer : Response) (left : Nat)
    (h : ∀ inp ∈ cycles, inp.rst = false) (hle : cycles.length ≤ left) :
    (portRun cycles { arch := c, phase := .waiting answer left }).final =
      { arch := c, phase := .waiting answer (left - cycles.length) } := by
  induction cycles generalizing left with
  | nil => rfl
  | cons inp rest ih =>
    obtain ⟨hinp, hrest⟩ := List.forall_mem_cons.mp h
    obtain ⟨left, rfl⟩ := Nat.exists_eq_succ_of_ne_zero (Nat.ne_zero_of_lt hle)
    rw [List.length_cons] at hle ⊢
    rw [Nat.succ_sub_succ_eq_sub, portRun, portClock_waiting_succ c answer left hinp]
    exact ih left hrest (Nat.le_of_succ_le_succ hle)

theorem portClock_accept {inp : PortIn} {r : Request} (c : Arch) (hrst : inp.rst = false) (hreq : inp.req = some r) :
    portClock inp { arch := c, phase := .ready } =
      { arch := (perform r c).1, phase := .waiting (perform r c).2 (latency r - 1) } := by
  simp [portClock, hrst, hreq]

/-- A transaction in flight holds req_ready at 0, and its response is offered once no cycle is left. -/
theorem portOut_waiting {inp : PortIn} (c : Arch) (answer : Response) (left : Nat) (h : inp.rst = false) :
    portOut inp { arch := c, phase := .waiting answer left } =
      { reqReady := false, rsp := if left = 0 then some answer else none } := by
  cases left <;> simp [portOut, h]

/-- Settles O53: the accepting cycle leaves the latency less one to wait, and each cycle after it takes one off. -/
theorem responseComesAfterItsLatency : Obligations.ResponseComesAfterItsLatency := by
  intro c accepting now r meanwhile haccepting hreq hnow hmeanwhile hle
  rw [portRun, portClock_accept c haccepting hreq, portRun_waiting meanwhile _ _ _ hmeanwhile hle,
    portOut_waiting _ _ _ hnow]
  congr 2
  rw [eq_iff_iff]
  omega

theorem reqReady_of_waiting (inp : PortIn) {p : PortState} {answer : Response} {left : Nat}
    (h : p.phase = .waiting answer left) : (portOut inp p).reqReady = false := by
  obtain ⟨c, phase⟩ := p
  obtain rfl : phase = .waiting answer left := h
  cases hrst : inp.rst with
  | true => simp [portOut, hrst]
  | false => rw [portOut_waiting c answer left hrst]

/-- Settles O52: one cycle under reset, and a request accepted only where req_ready is 1. -/
theorem portResetAndOneInFlight : Obligations.PortResetAndOneInFlight := by
  intro inp p
  refine ⟨port_cycle_reset p, fun answer left hphase => ?_⟩
  have hready := reqReady_of_waiting inp hphase
  exact ⟨by simp [accepted, hready], hready⟩

end Sys2Proof.Machine
end

section
/-! PROOF. Transactions given twice: what an operation leaves, the operation leaves again. -/

namespace Sys2Proof.Machine

/-- On the machine that `f` leaves, `f` leaves the same machine again, its response included. -/
def Repeats (f : State → Result) : Prop := ∀ s t, f s = .next t → f t = .next t

/-- An operation repeats once it completes in one way on CORE before and after it. -/
theorem Repeats.of_completes {f : State → Result}
    (h : ∀ s, ∃ d q, f s = .next (s.complete d q) ∧ f (s.complete d q) = .next ((s.complete d q).complete d q)) :
    Repeats f := by
  intro s t hs
  obtain ⟨d, q, hfirst, hsecond⟩ := h s
  obtain rfl := Host.Outcome.next.inj (hfirst.symm.trans hs)
  exact hsecond

theorem repeats_raiseErr (e : ErrCode) : Repeats (raiseErr e) :=
  .of_completes fun _ => ⟨_, _, rfl, rfl⟩

theorem repeats_respondData (v : Arch → Word) : Repeats fun s => respondData (v s.arch) s :=
  .of_completes fun _ => ⟨_, _, rfl, rfl⟩

theorem repeats_respondDone {g : Arch → Arch} (hg : ∀ c, g (g c) = g c) : Repeats fun s => respondDone (g s.arch) s :=
  .of_completes fun s => ⟨g s.arch, ⟨false, 0#64⟩, rfl, by rw [State.complete_arch, hg]; rfl⟩

/-- A rejection by the lock leaves the lock, and a write that it lets pass leaves it open. -/
theorem repeats_respondUnlocked {g : Arch → Arch} (hg : ∀ c, g (g c) = g c)
    (hopen : ∀ c, (g c).configured = c.configured) : Repeats fun s => respondUnlocked (g s.arch) s := by
  intro s t hs
  cases hc : s.arch.configured with
  | true =>
    have hs' := (respondUnlocked_of_locked hc).symm.trans hs
    obtain ⟨harch, -, -⟩ := raiseErr_spec hs'
    exact (respondUnlocked_of_locked (by rw [harch]; exact hc)).trans (repeats_raiseErr .locked s t hs')
  | false =>
    have hs' := (respondUnlocked_of_open hc).symm.trans hs
    obtain ⟨harch, -, -⟩ := respondDone_spec hs'
    exact (respondUnlocked_of_open (by rw [harch, hopen]; exact hc)).trans (repeats_respondDone hg s t hs')

theorem repeats_readEntry (file : Arch → TapFile) (i : TapIndex) : Repeats fun s => readEntry (file s.arch) i s := by
  by_cases hi : i.toNat < 20
  · simpa only [readEntry_of_lt hi] using repeats_respondData fun c => (file c)[i.toNat]
  · simpa only [readEntry_of_ge (Nat.not_lt.mp hi)] using repeats_raiseErr .badAddress

theorem repeats_execWrB (i : TapIndex) (w : Word) : Repeats (execWrB i w) := by
  unfold execWrB
  cases tapEntry i with
  | none => exact repeats_raiseErr .badAddress
  | some n => exact repeats_respondUnlocked (g := fun c => c.withB (c.b.set n w)) (by simp [Arch.withB]) fun _ => rfl

theorem repeats_execWrA (i : TapIndex) (w : Word) : Repeats (execWrA i w) := by
  unfold execWrA
  cases tapEntry i with
  | none => exact repeats_raiseErr .badAddress
  | some n => exact repeats_respondUnlocked (g := fun c => c.withA (c.a.set n w)) (by simp [Arch.withA]) fun _ => rfl

/-- The operations that R47 calls idempotent. -/
theorem repeats_exec {i : Instr} (hfilter : ∀ x, i ≠ .filter x) (hconfigure : i ≠ .configure) : Repeats (exec i) := by
  cases i with
  | rdCaps => exact repeats_respondData fun _ => capsWord
  | rdCfg => exact repeats_respondData cfgWord
  | wrCfg w =>
    exact repeats_respondUnlocked (g := fun c => c.withCfg (wdataNumIn w) (wdataNumOut w)) (fun _ => rfl) fun _ => rfl
  | rdStatus => exact repeats_respondData statusWord
  | configure => exact absurd rfl hconfigure
  | release => exact repeats_respondDone (g := released) fun _ => rfl
  | clearErr => exact repeats_respondDone (g := fun c => c.withLastErr errNone) fun _ => rfl
  | filter x => exact absurd rfl (hfilter x)
  | rdYOut => exact repeats_respondData fun c => c.yh[0]
  | rdB i => exact repeats_readEntry Arch.b i
  | wrB i w => exact repeats_execWrB i w
  | rdA i => exact repeats_readEntry Arch.a i
  | wrA i w => exact repeats_execWrA i w
  | rdXh i => exact repeats_readEntry Arch.xh i
  | rdYh i => exact repeats_readEntry Arch.yh i

theorem repeats_transact {r : Request} (hfilter : ¬ DecodesToFilter r) (hconfigure : decodeRequest r ≠ .ok .configure) :
    Repeats (transact r) := by
  unfold transact
  cases hd : decodeRequest r with
  | error e => exact repeats_raiseErr e
  | ok i =>
    exact repeats_exec (fun x hi => hfilter ⟨x, hi ▸ hd⟩) fun hi => hconfigure (hi ▸ hd)

/-- What repeats on the machine repeats on CORE. -/
theorem perform_of_repeats {r : Request} (h : Repeats (transact r)) (c : Arch) :
    perform r (perform r c).1 = perform r c := by
  have htwice := h _ _ (transact_eq_perform r (idleAt c))
  rw [transact_eq_perform, State.complete_complete] at htwice
  have hnext := Host.Outcome.next.inj htwice
  exact Prod.ext (congrArg State.arch hnext) (Option.some.inj (congrArg State.rsp hnext))

/-- A CONFIGURE answered OKAY configures CORE. -/
theorem Effect.configured_of_configure {c d : Arch} {q : Response} (h : Effect .configure c d q) (hq : q.err = false) :
    d.configured = true := by
  cases h with
  | rejected => cases hq
  | configured => rfl
  | read _ hi | counts _ hi | weightB _ _ _ hi | weightA _ _ _ hi | released hi | cleared hi | filtered _ hi => cases hi

theorem perform_configure_of_configured {r : Request} {c : Arch} (hd : decodeRequest r = .ok .configure)
    (hc : c.configured = true) : perform r c = (c.withLastErr 0x11#8, ⟨true, 0#64⟩) :=
  perform_of_exec hd (by simp [exec, execConfigure, idleAt, hc, raiseErr, errByte])

/-- Settles O24: every other transaction repeats, and the CONFIGURE that succeeded has closed the lock for the second. -/
theorem repeatedTransactionsAreIdempotent : Obligations.RepeatedTransactionsAreIdempotent := by
  intro r c
  refine ⟨fun hfilter hconfigure => perform_of_repeats (repeats_transact hfilter hconfigure) c, fun hd hok => ?_⟩
  obtain ⟨i, hi, he⟩ := perform_of_okay hok
  obtain rfl : i = .configure := Except.ok.inj (hi.symm.trans hd)
  exact perform_configure_of_configured hd (he.configured_of_configure hok)

end Sys2Proof.Machine
end

section
/-! PROOF. The register map: what stands at each address, which accesses the decoder rejects, and the byte lanes. -/

namespace Sys2Proof.Machine

/-- The offset of a register in the register map (R63), as a number. -/
def regOffset : Reg → Nat
  | .caps => 0x000
  | .cfg => 0x008
  | .status => 0x010
  | .cmdConfigure => 0x018
  | .cmdRelease => 0x020
  | .cmdClearErr => 0x028
  | .xIn => 0x030
  | .yOut => 0x038
  | .b i => 0x100 + 8 * i.toNat
  | .a i => 0x200 + 8 * i.toNat
  | .xh i => 0x300 + 8 * i.toNat
  | .yh i => 0x400 + 8 * i.toNat

/-- The ranges of R48 where no register stands. -/
abbrev Unmapped (n : Nat) : Prop :=
  (0x040 ≤ n ∧ n ≤ 0x0F8) ∨ (0x1A0 ≤ n ∧ n ≤ 0x1F8) ∨ (0x2A0 ≤ n ∧ n ≤ 0x2F8) ∨ (0x3A0 ≤ n ∧ n ≤ 0x3F8) ∨
    (0x4A0 ≤ n ∧ n ≤ 0x4F8) ∨ 0x500 ≤ n

theorem decodeReg_of_misaligned {addr : Addr} (h : addr.toNat % 8 ≠ 0) : decodeReg addr = .error .badAddress := by
  have hlow : addr.extractLsb' 0 3 ≠ 0#3 := fun h0 => h (by simpa using congrArg BitVec.toNat h0)
  rw [decodeReg, if_pos hlow]

theorem exists_fileAddr_of_aligned {addr : Addr} (h : addr.toNat % 8 = 0) : ∃ file i, addr = fileAddr file i := by
  refine ⟨BitVec.ofNat 4 (addr.toNat / 0x100), BitVec.ofNat 5 (addr.toNat / 8), BitVec.eq_of_toNat_eq ?_⟩
  have haddr := addr.isLt
  rw [toNat_fileAddr, BitVec.toNat_ofNat, BitVec.toNat_ofNat]
  omega

theorem unmapped_fileAddr_iff {file : BitVec 4} (hfile : file ≠ 0#4) (i : TapIndex) :
    Unmapped (fileAddr file i).toNat ↔ 19 < i.toNat ∨ 4 < file.toNat := by
  have hpos : file.toNat ≠ 0 := fun h0 => hfile (BitVec.eq_of_toNat_eq h0)
  have hi := i.isLt
  rw [toNat_fileAddr, Unmapped]
  omega

/-- The single registers, and the slots of their row where none stands. -/
theorem regOffset_singleRow (i : TapIndex) : (decodeReg (fileAddr 0#4 i)).map regOffset =
    if Unmapped (fileAddr 0#4 i).toNat then .error .badAddress else .ok (fileAddr 0#4 i).toNat := by
  revert i
  decide

/-- The entries of the four files, the reserved indices and the rows without a file. -/
theorem regOffset_indexedRow {file : BitVec 4} (hfile : file ≠ 0#4) (i : TapIndex) :
    (decodeReg (fileAddr file i)).map regOffset =
      if Unmapped (fileAddr file i).toNat then .error .badAddress else .ok (fileAddr file i).toNat := by
  simp only [unmapped_fileAddr_iff hfile]
  rw [toNat_fileAddr, decodeReg_fileAddr hfile, indexedReg]
  by_cases hi : i.toNat > 19
  · rw [if_pos hi, if_pos (.inl hi)]
    rfl
  · rw [if_neg hi]
    obtain rfl | rfl | rfl | rfl | ⟨h1, h2, h3, h4, hrow⟩ : file = 1#4 ∨ file = 2#4 ∨ file = 3#4 ∨ file = 4#4 ∨
        (file ≠ 1#4 ∧ file ≠ 2#4 ∧ file ≠ 3#4 ∧ file ≠ 4#4 ∧ 4 < file.toNat) := by
      revert file
      decide
    case inr.inr.inr.inr =>
      rw [if_neg h1, if_neg h2, if_neg h3, if_neg h4, if_pos (.inr hrow)]
      rfl
    all_goals exact (if_neg (not_or.mpr ⟨hi, by decide⟩)).symm

/-- The decoder reads from an aligned address the register that stands there, and rejects it where none does. -/
theorem regOffset_decodeReg {addr : Addr} (h : addr.toNat % 8 = 0) :
    (decodeReg addr).map regOffset = if Unmapped addr.toNat then .error .badAddress else .ok addr.toNat := by
  obtain ⟨file, i, rfl⟩ := exists_fileAddr_of_aligned h
  by_cases hfile : file = 0#4
  · rw [hfile]
    exact regOffset_singleRow i
  · exact regOffset_indexedRow hfile i

theorem decodeRequest_of_error {r : Request} {e : ErrCode} (h : decodeReg r.addr = .error e) :
    decodeRequest r = .error e := by
  simp [decodeRequest, h]

theorem decodeRequest_of_reg {r : Request} {reg : Reg} (h : decodeReg r.addr = .ok reg) :
    decodeRequest r = if r.write then reg.writeOp r.wdata else reg.readOp := by
  simp [decodeRequest, h]

theorem decodeReg_of_unmapped {addr : Addr} (h : addr.toNat % 8 = 0) (hu : Unmapped addr.toNat) :
    decodeReg addr = .error .badAddress := by
  have hmap := regOffset_decodeReg h
  rw [if_pos hu] at hmap
  cases hd : decodeReg addr with
  | error e => simpa [hd, Except.map] using hmap
  | ok reg => simp [hd, Except.map] at hmap

theorem decodeReg_of_mapped {addr : Addr} (h : addr.toNat % 8 = 0) (hu : ¬ Unmapped addr.toNat) :
    ∃ reg, decodeReg addr = .ok reg ∧ regOffset reg = addr.toNat := by
  have hmap := regOffset_decodeReg h
  rw [if_neg hu] at hmap
  cases hd : decodeReg addr with
  | error e => simp [hd, Except.map] at hmap
  | ok reg => exact ⟨reg, rfl, by simpa [hd, Except.map] using hmap⟩

/-- The registers that the register map lets nobody write (R63, R67). -/
theorem writeOp_by_offset (reg : Reg) (wdata : Word) :
    if regOffset reg ∈ [0x000, 0x010, 0x038] ∨ 0x300 ≤ regOffset reg then reg.writeOp wdata = .error .badAccess
    else ∃ i, reg.writeOp wdata = .ok i := by
  cases reg with
  | b i | a i =>
    have hi := i.isLt
    rw [if_neg (by simp [regOffset]; omega)]
    exact ⟨_, rfl⟩
  | xh i | yh i => exact (if_pos (.inr (by simp only [regOffset]; omega))).mpr rfl
  | _ => simp [regOffset, Reg.writeOp]

/-- The registers that the register map lets nobody read (R63, R67). -/
theorem readOp_by_offset (reg : Reg) :
    if regOffset reg ∈ [0x018, 0x020, 0x028, 0x030] then reg.readOp = .error .badAccess
    else ∃ i, reg.readOp = .ok i := by
  cases reg with
  | b i | a i | xh i | yh i =>
    rw [if_neg (by simp [regOffset]; omega)]
    exact ⟨_, rfl⟩
  | _ => simp [regOffset, Reg.readOp]

/-- Settles O6: the address selects its register or none, and the register's column of the map decides the access. -/
theorem decoderRejectsByAddress : Obligations.DecoderRejectsByAddress := by
  intro r
  split_ifs with halign hunmapped hwrite hread
  · exact decodeRequest_of_error (decodeReg_of_misaligned halign)
  · exact decodeRequest_of_error (decodeReg_of_unmapped (not_not.mp halign) hunmapped)
  all_goals
    obtain ⟨reg, hreg, hoffset⟩ := decodeReg_of_mapped (not_not.mp halign) hunmapped
    have hw := writeOp_by_offset reg r.wdata
    have hr := readOp_by_offset reg
    rw [hoffset] at hw hr
    rw [decodeRequest_of_reg hreg]
  · obtain ⟨hbit, haddr⟩ := hwrite
    rw [if_pos haddr] at hw
    rw [if_pos hbit, hw]
  · obtain ⟨hbit, haddr⟩ := hread
    rw [if_pos haddr] at hr
    rw [if_neg (by simp [hbit]), hr]
  · cases hbit : r.write with
    | true =>
      rw [if_neg (not_and.mp hwrite hbit)] at hw
      exact hw
    | false =>
      rw [if_neg (not_and.mp hread hbit)] at hr
      exact hr

theorem append_byteLane (w : Word) {start n : Nat} {k : Fin 8} (h : start = 8 * k.val + 8) :
    w.extractLsb' start n ++ byteLane w k = w.extractLsb' (8 * k.val) (n + 8) :=
  BitVec.extractLsb'_append_extractLsb'_eq_extractLsb' h

theorem word_eq_byteLanes (w : Word) : w = byteLane w 7 ++ byteLane w 6 ++ byteLane w 5 ++ byteLane w 4 ++
    byteLane w 3 ++ byteLane w 2 ++ byteLane w 1 ++ byteLane w 0 := by
  have h6 : byteLane w 7 ++ byteLane w 6 = w.extractLsb' 48 16 := append_byteLane w rfl
  have h5 : w.extractLsb' 48 16 ++ byteLane w 5 = w.extractLsb' 40 24 := append_byteLane w rfl
  have h4 : w.extractLsb' 40 24 ++ byteLane w 4 = w.extractLsb' 32 32 := append_byteLane w rfl
  have h3 : w.extractLsb' 32 32 ++ byteLane w 3 = w.extractLsb' 24 40 := append_byteLane w rfl
  have h2 : w.extractLsb' 24 40 ++ byteLane w 2 = w.extractLsb' 16 48 := append_byteLane w rfl
  have h1 : w.extractLsb' 16 48 ++ byteLane w 1 = w.extractLsb' 8 56 := append_byteLane w rfl
  have h0 : w.extractLsb' 8 56 ++ byteLane w 0 = w.extractLsb' 0 64 := append_byteLane w rfl
  rw [h6, h5, h4, h3, h2, h1, h0, BitVec.extractLsb'_eq_self]

theorem toNat_laneAddr {slot : Addr} (h : slot.toNat % 8 = 0) (k : Fin 8) :
    (laneAddr slot k).toNat = slot.toNat + k.val := by
  have hslot := slot.isLt
  have hk := k.isLt
  rw [laneAddr, BitVec.toNat_add, BitVec.toNat_ofNat]
  omega

/-- Settles O49: the lanes are adjacent bit fields, and an aligned address plus 1 to 7 is misaligned. -/
theorem byteLanesAreLittleEndian : Obligations.ByteLanesAreLittleEndian := by
  refine ⟨word_eq_byteLanes, fun slot k wdata hslot => ⟨toNat_laneAddr hslot k, fun hk => ?_⟩⟩
  have hlane := toNat_laneAddr hslot k
  have hmisaligned : (laneAddr slot k).toNat % 8 ≠ 0 := by
    have hk0 : k.val ≠ 0 := Fin.val_ne_zero_iff.mpr hk
    have hlt := k.isLt
    omega
  have hreg := decodeReg_of_misaligned hmisaligned
  exact ⟨decodeRequest_of_error hreg, decodeRequest_of_error hreg⟩

end Sys2Proof.Machine
end

section
/-! PROOF. The decoder on a request's 77 bits, in the step. -/

namespace Sys2Proof.Machine

/-- The fields of a request stand in its 77 bits where R60 reads them. -/
theorem ofBits_toBits (r : Request) : Request.ofBits r.toBits = r := by
  have hw : r.toBits.getLsbD 76 = r.write := by
    rw [Request.toBits, Request.header, BitVec.getLsbD_append, BitVec.getLsbD_append]
    simp
  have haddr : r.toBits.extractLsb' 64 12 = r.addr :=
    (BitVec.extractLsb'_append_eq_of_le (Nat.le_refl 64)).trans BitVec.extractLsb'_append_eq_right
  have hdata : r.toBits.extractLsb' 0 64 = r.wdata := BitVec.extractLsb'_append_eq_right
  rw [Request.ofBits, hw, haddr, hdata]

theorem decode_toBits (r : Request) : decode r.toBits = decodeRequest r := by
  rw [decode, ofBits_toBits]

/-- Settles O7: the step serves the request, and the decoder reads it from its bits. -/
theorem stepPerformsTheDecodedOperation : Obligations.StepPerformsTheDecodedOperation := by
  intro s r rest i hpending hdecode
  rw [decode_toBits] at hdecode
  rw [step_request hpending, transact, hdecode]
  rfl

end Sys2Proof.Machine
end

section
/-! PROOF. Two hosts whose requests are merged into one stream. -/

namespace Sys2Proof.Machine

/-- Settles O34: each FILTER shifts its output into YH[0], where both reads find the second one. -/
theorem unserializedHostsReadTheLaterOutput : Obligations.UnserializedHostsReadTheLaterOutput := by
  intro c x y hc
  have hx := perform_filter x hc
  have hy := perform_filter y ((filterEval_configured x c).trans hc)
  simp only [performAll, hx, hy, perform_rdYOut, filterEval_yh, shiftIn_zero]

end Sys2Proof.Machine
end

section
/-! PROOF. The encoder: the decoder reads an encoded operation back, and what it accepts is an operation encoded. -/

namespace Sys2Proof.Machine

/-! A register stands at one address. -/

/-- The address of a register, as `encodeRequest` writes it. -/
def regAddr : Reg → Addr
  | .caps => 0x000#12
  | .cfg => 0x008#12
  | .status => 0x010#12
  | .cmdConfigure => 0x018#12
  | .cmdRelease => 0x020#12
  | .cmdClearErr => 0x028#12
  | .xIn => 0x030#12
  | .yOut => 0x038#12
  | .b i => fileAddr 1#4 i
  | .a i => fileAddr 2#4 i
  | .xh i => fileAddr 3#4 i
  | .yh i => fileAddr 4#4 i

/-- An entry of a file has a legal index (R65). -/
def regLegal : Reg → Bool
  | .b i | .a i | .xh i | .yh i => legalIndex i
  | _ => true

theorem toNat_regAddr (reg : Reg) : (regAddr reg).toNat = regOffset reg := by
  cases reg with
  | b i => exact toNat_fileAddr 1#4 i
  | a i => exact toNat_fileAddr 2#4 i
  | xh i => exact toNat_fileAddr 3#4 i
  | yh i => exact toNat_fileAddr 4#4 i
  | _ => rfl

theorem regLegal_of_mapped {reg : Reg} (h : ¬ Unmapped (regOffset reg)) : regLegal reg = true := by
  cases reg with
  | b i | a i | xh i | yh i =>
    have hi := i.isLt
    rw [regOffset] at h
    exact decide_eq_true (by omega)
  | _ => rfl

theorem decodeReg_fileAddr_of_legal {file : BitVec 4} (hfile : file ≠ 0#4) {i : TapIndex} (hi : legalIndex i = true) :
    decodeReg (fileAddr file i) =
      if file = 1#4 then .ok (.b i) else if file = 2#4 then .ok (.a i) else if file = 3#4 then .ok (.xh i)
      else if file = 4#4 then .ok (.yh i) else .error .badAddress := by
  rw [decodeReg_fileAddr hfile, indexedReg, if_neg (Nat.not_lt.mpr (of_decide_eq_true hi))]

/-- The decoder reads the register that stands at an address. -/
theorem decodeReg_regAddr {reg : Reg} (h : regLegal reg = true) : decodeReg (regAddr reg) = .ok reg := by
  cases reg with
  | b i => exact decodeReg_fileAddr_of_legal (file := 1#4) (by decide) h
  | a i => exact decodeReg_fileAddr_of_legal (file := 2#4) (by decide) h
  | xh i => exact decodeReg_fileAddr_of_legal (file := 3#4) (by decide) h
  | yh i => exact decodeReg_fileAddr_of_legal (file := 4#4) (by decide) h
  | _ => rfl

/-- The decoder reads a register at that register's address only. -/
theorem decodeReg_eq_ok_iff {addr : Addr} {reg : Reg} :
    decodeReg addr = .ok reg ↔ regLegal reg = true ∧ addr = regAddr reg := by
  refine ⟨fun h => ?_, fun ⟨hlegal, haddr⟩ => haddr ▸ decodeReg_regAddr hlegal⟩
  by_cases halign : addr.toNat % 8 = 0
  · by_cases hu : Unmapped addr.toNat
    · cases h.symm.trans (decodeReg_of_unmapped halign hu)
    · obtain ⟨reg', hreg', hoffset⟩ := decodeReg_of_mapped halign hu
      obtain rfl := Except.ok.inj (hreg'.symm.trans h)
      refine ⟨regLegal_of_mapped (hoffset ▸ hu), BitVec.eq_of_toNat_eq ?_⟩
      rw [toNat_regAddr, hoffset]
  · cases h.symm.trans (decodeReg_of_misaligned halign)

/-! The decoder after the encoder. -/

/-- The register that an operation accesses (R68). -/
def instrReg : Instr → Reg
  | .rdCaps => .caps
  | .rdCfg | .wrCfg _ => .cfg
  | .rdStatus => .status
  | .configure => .cmdConfigure
  | .release => .cmdRelease
  | .clearErr => .cmdClearErr
  | .filter _ => .xIn
  | .rdYOut => .yOut
  | .rdB i | .wrB i _ => .b i
  | .rdA i | .wrA i _ => .a i
  | .rdXh i => .xh i
  | .rdYh i => .yh i

theorem encodeRequest_addr (i : Instr) : (encodeRequest i).addr = regAddr (instrReg i) := by
  cases i <;> rfl

theorem regLegal_instrReg (i : Instr) : regLegal (instrReg i) = i.wf := by
  cases i <;> rfl

/-- The register's column of the map gives the operation back from its encoded access. -/
theorem access_instrReg (i : Instr) : (if (encodeRequest i).write then (instrReg i).writeOp (encodeRequest i).wdata
    else (instrReg i).readOp) = .ok i := by
  cases i <;> rfl

theorem decodeRequest_encodeRequest {i : Instr} (h : i.wf = true) : decodeRequest (encodeRequest i) = .ok i := by
  have hreg : decodeReg (encodeRequest i).addr = .ok (instrReg i) := by
    rw [encodeRequest_addr]
    exact decodeReg_regAddr ((regLegal_instrReg i).trans h)
  rw [decodeRequest_of_reg hreg, access_instrReg]

/-- Settles O1: the request stands in its bits, and the decoder reads each operation back from its request. -/
theorem decodeOfEncodeIsIdentity : Obligations.DecodeOfEncodeIsIdentity :=
  fun i hi => (decode_toBits (encodeRequest i)).trans (decodeRequest_encodeRequest hi)

/-- Settles O5: each word is the encoding of its operation, but for the data word of CONFIGURE, which is ignored. -/
theorem sampleWordsDecode : Obligations.SampleWordsDecode := by
  refine ⟨?_, ?_, ?_, ?_, ?_⟩
  · exact decodeOfEncodeIsIdentity (.wrB 0#5 0x3FD555475A31A4BE#64) rfl
  · exact decodeOfEncodeIsIdentity .rdCfg rfl
  · exact decode_toBits (writeAt 0x018#12 0xFFFFFFFFFFFFFFFF#64)
  · exact decodeOfEncodeIsIdentity (.filter 0x3FF0000000000000#64) rfl
  · exact decodeOfEncodeIsIdentity (.rdYh 19#5) rfl

/-! The encoder after the decoder. -/

/-- An accepted request selects a legal register, whose column of the map gives the operation (R63, R64). -/
theorem exists_reg_of_decodeRequest {r : Request} {i : Instr} (h : decodeRequest r = .ok i) :
    ∃ reg, regLegal reg = true ∧ r.addr = regAddr reg ∧
      (if r.write then reg.writeOp r.wdata else reg.readOp) = .ok i := by
  cases hreg : decodeReg r.addr with
  | error e => cases h.symm.trans (decodeRequest_of_error hreg)
  | ok reg =>
    obtain ⟨hlegal, haddr⟩ := decodeReg_eq_ok_iff.mp hreg
    exact ⟨reg, hlegal, haddr, (decodeRequest_of_reg hreg).symm.trans h⟩

section
variable {reg : Reg} {i : Instr} {w d : Word}

theorem encodeRequest_of_readOp (h : reg.readOp = .ok i) : encodeRequest i = readAt (regAddr reg) 0#64 := by
  cases reg <;> cases h <;> rfl

theorem wf_of_readOp (h : reg.readOp = .ok i) (hlegal : regLegal reg = true) : i.wf = true := by
  cases reg <;> cases h <;> exact hlegal

/-- An operation without a data operand is encoded with WDATA = 0 (R69). -/
theorem encodeRequest_of_writeOp (h : reg.writeOp w = .ok i) :
    encodeRequest i = writeAt (regAddr reg) w ∨ encodeRequest i = writeAt (regAddr reg) 0#64 := by
  cases reg with
  | cfg | xIn | b | a => cases h; exact .inl rfl
  | cmdConfigure | cmdRelease | cmdClearErr => cases h; exact .inr rfl
  | _ => cases h

theorem wf_of_writeOp (h : reg.writeOp w = .ok i) (hlegal : regLegal reg = true) : i.wf = true := by
  cases reg <;> cases h <;> exact hlegal

/-- The data operand of a write is WDATA (R66). -/
theorem data_of_writeOp (h : reg.writeOp w = .ok i)
    (hd : i = .wrCfg d ∨ i = .filter d ∨ (∃ n, i = .wrB n d) ∨ ∃ n, i = .wrA n d) : d = w := by
  obtain rfl | rfl | ⟨n, rfl⟩ | ⟨n, rfl⟩ := hd
  all_goals
    cases reg <;> cases h
    rfl

/-- Whether a write is accepted does not depend on WDATA. -/
theorem exists_writeOp (h : reg.writeOp w = .ok i) (w' : Word) : ∃ j, reg.writeOp w' = .ok j := by
  cases reg <;> cases h <;> exact ⟨_, rfl⟩

end

/-- Settles O2: the register selected has the request's address, and its column of the map gives the operation. -/
theorem encodeOfDecodeRestoresTheRequest : Obligations.EncodeOfDecodeRestoresTheRequest := by
  intro r i h
  obtain ⟨reg, hlegal, haddr, hop⟩ := exists_reg_of_decodeRequest h
  obtain ⟨write, addr, wdata⟩ := r
  obtain rfl : addr = regAddr reg := haddr
  cases write with
  | true =>
    refine ⟨wf_of_writeOp hop hlegal, ?_, ?_, fun d hd => data_of_writeOp hop hd⟩
    · obtain hencode | hencode := encodeRequest_of_writeOp hop
      all_goals exact (congrArg Request.header hencode).trans rfl
    · exact (encodeRequest_of_writeOp hop).imp (congrArg Request.wdata) (congrArg Request.wdata)
  | false =>
    have hread := readOnlyOp_of_readOp hop
    rw [encodeRequest_of_readOp hop]
    refine ⟨wf_of_readOp hop hlegal, rfl, .inr rfl, fun d hd => ?_⟩
    obtain rfl | rfl | ⟨n, rfl⟩ | ⟨n, rfl⟩ := hd <;> cases hread

end Sys2Proof.Machine
end

section
/-! PROOF. The opcode table: its rows match the headers of the operations encoded, each row those of its own. -/

namespace Sys2Proof.Machine

theorem header_inj {r q : Request} (h : r.header = q.header) : r.write = q.write ∧ r.addr = q.addr := by
  have hw := congrArg (BitVec.extractLsb' 12 1) h
  have ha := congrArg (BitVec.extractLsb' 0 12) h
  simp only [Request.header, BitVec.extractLsb'_append_eq_left, BitVec.extractLsb'_append_eq_right] at hw ha
  exact ⟨BitVec.ofBool_eq_iff_eq.mp hw, ha⟩

/-- The header alone decides whether a request is accepted (R60, R64). -/
theorem exists_decodeRequest_of_header {r q : Request} {i : Instr} (hq : decodeRequest q = .ok i)
    (h : q.header = r.header) : ∃ j, decodeRequest r = .ok j := by
  obtain ⟨hw, ha⟩ := header_inj h
  obtain ⟨reg, hlegal, haddr, hop⟩ := exists_reg_of_decodeRequest hq
  rw [decodeRequest_of_reg (decodeReg_eq_ok_iff.mpr ⟨hlegal, ha.symm.trans haddr⟩), ← hw]
  cases hbit : q.write with
  | true => exact exists_writeOp (by simpa [hbit] using hop) r.wdata
  | false => exact ⟨i, by simpa [hbit] using hop⟩

/-! The rows that match an operation's header. -/

/-- The mnemonics of the rows that match a header. -/
def matchingRows (h : Header) : List String := (opcodeTable.filter fun q => q.accepts h).map OpcodeRow.mnemonic

/-- Each entry's header is matched by the row of its file and access, and by no other. -/
theorem matchingRows_fileAddr : ∀ i : TapIndex, legalIndex i = true →
    matchingRows (readAt (fileAddr 1#4 i) 0#64).header = ["RD_B"] ∧
    matchingRows (writeAt (fileAddr 1#4 i) 0#64).header = ["WR_B"] ∧
    matchingRows (readAt (fileAddr 2#4 i) 0#64).header = ["RD_A"] ∧
    matchingRows (writeAt (fileAddr 2#4 i) 0#64).header = ["WR_A"] ∧
    matchingRows (readAt (fileAddr 3#4 i) 0#64).header = ["RD_XH"] ∧
    matchingRows (readAt (fileAddr 4#4 i) 0#64).header = ["RD_YH"] := by
  decide

theorem matchingRows_encodeRequest {i : Instr} (hi : i.wf = true) :
    matchingRows (encodeRequest i).header = [i.mnemonic] := by
  cases i with
  | rdB n =>
    obtain ⟨hrow, -⟩ := matchingRows_fileAddr n hi
    exact hrow
  | wrB n =>
    obtain ⟨-, hrow, -⟩ := matchingRows_fileAddr n hi
    exact hrow
  | rdA n =>
    obtain ⟨-, -, hrow, -⟩ := matchingRows_fileAddr n hi
    exact hrow
  | wrA n =>
    obtain ⟨-, -, -, hrow, -⟩ := matchingRows_fileAddr n hi
    exact hrow
  | rdXh n =>
    obtain ⟨-, -, -, -, hrow, -⟩ := matchingRows_fileAddr n hi
    exact hrow
  | rdYh n =>
    obtain ⟨-, -, -, -, -, hrow⟩ := matchingRows_fileAddr n hi
    exact hrow
  | wrCfg => exact (rfl : matchingRows (writeAt 0x008#12 0#64).header = ["WR_CFG"])
  | filter => exact (rfl : matchingRows (writeAt 0x030#12 0#64).header = ["FILTER"])
  | _ => rfl

/-! The operation of a row that matches. -/

section
variable {mnemonic : String} {pattern mask h : Header}

/-- A field of the header that the mask covers is the pattern's. -/
theorem extractLsb'_of_masked {start len : Nat} (hmasked : h &&& mask = pattern)
    (hfield : mask.extractLsb' start len = BitVec.allOnes len) :
    h.extractLsb' start len = pattern.extractLsb' start len := by
  rw [← hmasked, BitVec.extractLsb'_and, hfield, BitVec.and_allOnes]

theorem header_eq_fields (h : Header) :
    h = h.extractLsb' 12 1 ++ (h.extractLsb' 8 4 ++ h.extractLsb' 3 5 ++ h.extractLsb' 0 3) := by
  have hindex : h.extractLsb' 8 4 ++ h.extractLsb' 3 5 = h.extractLsb' 3 9 :=
    BitVec.extractLsb'_append_extractLsb'_eq_extractLsb' rfl
  have haddr : h.extractLsb' 3 9 ++ h.extractLsb' 0 3 = h.extractLsb' 0 12 :=
    BitVec.extractLsb'_append_extractLsb'_eq_extractLsb' rfl
  have hheader : h.extractLsb' 12 1 ++ h.extractLsb' 0 12 = h.extractLsb' 0 13 :=
    BitVec.extractLsb'_append_extractLsb'_eq_extractLsb' rfl
  rw [hindex, haddr, hheader, BitVec.extractLsb'_eq_self]

theorem eq_of_accepts_full (hrow : OpcodeRow.accepts ⟨mnemonic, pattern, 0x1FFF#13⟩ h = true) : pattern = h := by
  obtain ⟨hmasked, -⟩ := (Bool.and_eq_true _ _).mp hrow
  exact (of_decide_eq_true hmasked).symm.trans BitVec.and_allOnes

/-- An indexed row leaves the tap index free and bounds it; every other bit of the header is the pattern's. -/
theorem eq_of_accepts_indexed {write : Bool} {file : BitVec 4} {wdata : Word}
    (hwrite : pattern.extractLsb' 12 1 = BitVec.ofBool write) (hfile : pattern.extractLsb' 8 4 = file)
    (hlow : pattern.extractLsb' 0 3 = 0#3) (hrow : OpcodeRow.accepts ⟨mnemonic, pattern, 0x1F07#13⟩ h = true) :
    legalIndex (h.extractLsb' 3 5) = true ∧ Request.header ⟨write, fileAddr file (h.extractLsb' 3 5), wdata⟩ = h := by
  obtain ⟨hmasked, hindex⟩ := (Bool.and_eq_true _ _).mp hrow
  have hmasked : h &&& 0x1F07#13 = pattern := of_decide_eq_true hmasked
  refine ⟨hindex, ?_⟩
  rw [← extractLsb'_of_masked hmasked rfl] at hwrite hfile hlow
  rw [Request.header, fileAddr, ← hwrite, ← hfile, ← hlow]
  exact (header_eq_fields h).symm

end

/-- The headers that a row matches are those of its operation. -/
theorem exists_instr_of_accepts {row : OpcodeRow} {h : Header} (hmem : row ∈ opcodeTable)
    (hrow : row.accepts h = true) : ∃ i : Instr, i.wf = true ∧ (encodeRequest i).header = h := by
  simp only [opcodeTable, List.mem_cons, List.not_mem_nil, or_false] at hmem
  obtain rfl | rfl | rfl | rfl | rfl | rfl | rfl | rfl | rfl | rfl | rfl | rfl | rfl | rfl | rfl := hmem
  · exact ⟨.rdCaps, rfl, eq_of_accepts_full hrow⟩
  · exact ⟨.rdCfg, rfl, eq_of_accepts_full hrow⟩
  · exact ⟨.wrCfg 0#64, rfl, eq_of_accepts_full hrow⟩
  · exact ⟨.rdStatus, rfl, eq_of_accepts_full hrow⟩
  · exact ⟨.configure, rfl, eq_of_accepts_full hrow⟩
  · exact ⟨.release, rfl, eq_of_accepts_full hrow⟩
  · exact ⟨.clearErr, rfl, eq_of_accepts_full hrow⟩
  · exact ⟨.filter 0#64, rfl, eq_of_accepts_full hrow⟩
  · exact ⟨.rdYOut, rfl, eq_of_accepts_full hrow⟩
  · exact ⟨.rdB (h.extractLsb' 3 5), eq_of_accepts_indexed rfl rfl rfl hrow⟩
  · exact ⟨.wrB (h.extractLsb' 3 5) 0#64, eq_of_accepts_indexed rfl rfl rfl hrow⟩
  · exact ⟨.rdA (h.extractLsb' 3 5), eq_of_accepts_indexed rfl rfl rfl hrow⟩
  · exact ⟨.wrA (h.extractLsb' 3 5) 0#64, eq_of_accepts_indexed rfl rfl rfl hrow⟩
  · exact ⟨.rdXh (h.extractLsb' 3 5), eq_of_accepts_indexed rfl rfl rfl hrow⟩
  · exact ⟨.rdYh (h.extractLsb' 3 5), eq_of_accepts_indexed rfl rfl rfl hrow⟩

/-- Settles O3: an accepted header is that of its operation, which one row matches, and a header that some row matches is
accepted. -/
theorem decoderAgreesWithOpcodeTable : Obligations.DecoderAgreesWithOpcodeTable := by
  intro r
  refine ⟨fun i hi => ?_, fun e he => List.filter_eq_nil_iff.mpr fun row hmem hrow => ?_⟩
  · obtain ⟨hwf, hheader, -⟩ := encodeOfDecodeRestoresTheRequest r i hi
    exact List.map_eq_singleton_iff.mp (hheader ▸ matchingRows_encodeRequest hwf)
  · obtain ⟨i, hwf, hheader⟩ := exists_instr_of_accepts hmem hrow
    obtain ⟨j, hj⟩ := exists_decodeRequest_of_header (decodeRequest_encodeRequest hwf) hheader
    cases he.symm.trans hj

end Sys2Proof.Machine
end

section
/-! PROOF. The transaction words: every value of their bits is a transaction, and a table word is the next one served. -/

namespace Sys2Proof.Machine

theorem ofBool_getLsbD {n : Nat} (v : BitVec n) (k : Nat) : BitVec.ofBool (v.getLsbD k) = v.extractLsb' k 1 := by
  apply BitVec.eq_of_getLsbD_eq
  intro j hj
  obtain rfl : j = 0 := by omega
  simp

/-- Every 77-bit value is a request (R60). -/
theorem toBits_ofBits (v : BitVec 77) : (Request.ofBits v).toBits = v := by
  have hheader : (Request.ofBits v).header = v.extractLsb' 64 13 := by
    rw [Request.header, Request.ofBits, ofBool_getLsbD]
    exact BitVec.extractLsb'_append_extractLsb'_eq_extractLsb' rfl
  have hword : v.extractLsb' 64 13 ++ v.extractLsb' 0 64 = v.extractLsb' 0 77 :=
    BitVec.extractLsb'_append_extractLsb'_eq_extractLsb' rfl
  rw [Request.toBits, hheader]
  exact hword.trans BitVec.extractLsb'_eq_self

/-- The fields of a response stand in its 65 bits where R61 reads them. -/
theorem response_ofBits_toBits (r : Response) : Response.ofBits r.toBits = r := by
  have herr : r.toBits.getLsbD 64 = r.err := by
    rw [Response.toBits, BitVec.getLsbD_append]
    simp
  have hdata : r.toBits.extractLsb' 0 64 = r.rdata := BitVec.extractLsb'_append_eq_right
  rw [Response.ofBits, herr, hdata]

theorem response_toBits_ofBits (v : BitVec 65) : (Response.ofBits v).toBits = v := by
  have hword : v.extractLsb' 64 1 ++ v.extractLsb' 0 64 = v.extractLsb' 0 65 :=
    BitVec.extractLsb'_append_extractLsb'_eq_extractLsb' rfl
  rw [Response.toBits, Response.ofBits, ofBool_getLsbD]
  exact hword.trans BitVec.extractLsb'_eq_self

/-- Settles O4: the fields stand in the bits, and the bits are their fields joined. -/
theorem transactionWordsRoundTrip : Obligations.TransactionWordsRoundTrip :=
  ⟨ofBits_toBits, toBits_ofBits, response_ofBits_toBits, response_toBits_ofBits⟩

theorem decodeRequest_of_decodeTableWord {nbits w : Nat} {i : Instr} (h : decodeTableWord nbits w = some i) :
    decodeRequest (tableRequest nbits w) = .ok i := by
  rw [decodeTableWord, decode_toBits] at h
  cases hd : decodeRequest (tableRequest nbits w) with
  | error e => simp [hd] at h
  | ok j => simpa [hd] using h

/-- Settles O9: the step takes the request placed first, which leaves the machine as it was, and performs it. -/
theorem tableWordRunsNext : Obligations.TableWordRunsNext := by
  intro s nbits w i h
  have hstep : step (s.withFetchWord nbits w) = transact (tableRequest nbits w) s :=
    step_request (State.withPending_pending s _)
  rw [hstep, transact, decodeRequest_of_decodeTableWord h]

end Sys2Proof.Machine
end

section
/-! PROOF. The writes of the weights. -/

namespace Sys2Proof.Machine

theorem decodeRequest_writeAt {addr : Addr} {reg : Reg} (h : decodeReg addr = .ok reg) (wdata : Word) :
    decodeRequest (writeAt addr wdata) = reg.writeOp wdata :=
  decodeRequest_of_reg h

theorem tapEntry_indexOf (i : Fin 20) : tapEntry (indexOf i) = some i := by
  rw [tapEntry_of_lt ((toNat_indexOf i).trans_lt i.isLt)]
  exact congrArg some (Fin.ext (toNat_indexOf i))

section
variable (i : Fin 20) (w : Word) (s : State)

theorem execWrB_indexOf : execWrB (indexOf i) w s = respondUnlocked (s.arch.withB (s.arch.b.set i w)) s := by
  rw [execWrB, tapEntry_indexOf]

theorem execWrA_indexOf : execWrA (indexOf i) w s = respondUnlocked (s.arch.withA (s.arch.a.set i w)) s := by
  rw [execWrA, tapEntry_indexOf]

/-- Writing one entry of a file leaves the word in it, and every other entry. -/
theorem getElem_set_entry (f : TapFile) : (f.set i w)[i] = w ∧ ∀ j : Fin 20, j ≠ i → (f.set i w)[j] = f[j] :=
  ⟨Vector.getElem_set_self i.isLt,
    fun j hj => Vector.getElem_set_ne i.isLt j.isLt fun h => hj (Fin.ext h.symm)⟩

end

/-- Settles O19: the addresses decode to the writes, and the lock decides between the new file and LOCKED. -/
theorem weightWrites : Obligations.WeightWrites := by
  intro s i w
  refine ⟨decodeRequest_writeAt (decodeReg_entryAddr_b i) w, decodeRequest_writeAt (decodeReg_entryAddr_a i) w,
    fun hopen => ⟨⟨s.arch.b.set i w, ?_, getElem_set_entry i w _⟩, ⟨s.arch.a.set i w, ?_, getElem_set_entry i w _⟩⟩,
    fun hlocked => ⟨?_, ?_⟩⟩
  · exact (execWrB_indexOf i w s).trans (respondUnlocked_of_open hopen)
  · exact (execWrA_indexOf i w s).trans (respondUnlocked_of_open hopen)
  · exact (execWrB_indexOf i w s).trans (respondUnlocked_of_locked hlocked)
  · exact (execWrA_indexOf i w s).trans (respondUnlocked_of_locked hlocked)

end Sys2Proof.Machine
end

section
/-! PROOF. The reads of the control registers and of the weights, and the write of the counts. -/

namespace Sys2Proof.Machine

theorem cfgWord_eq_ofNat (c : Arch) : cfgWord c = BitVec.ofNat 64 (c.numOut.toNat * 0x100 + c.numIn.toNat) := by
  rw [Nat.mul_comm c.numOut.toNat, ← toNat_cfgWord, BitVec.ofNat_toNat, BitVec.setWidth_eq]

theorem statusWord_eq_ofNat (c : Arch) :
    statusWord c = BitVec.ofNat 64 (c.lastErr.toNat * 0x100 + c.configured.toNat) := by
  rw [Nat.mul_comm c.lastErr.toNat, ← toNat_statusWord, BitVec.ofNat_toNat, BitVec.setWidth_eq]

/-- Settles O14: the three addresses are fixed, and the words of CFG and STATUS are the numbers of their fields. -/
theorem controlRegisterReads : Obligations.ControlRegisterReads := by
  intro s wdata
  refine ⟨⟨?_, rfl⟩, ⟨?_, ?_⟩, ?_, ?_⟩
  · exact decodeRequest_readAt (reg := .caps) rfl wdata
  · exact decodeRequest_readAt (reg := .cfg) rfl wdata
  · rw [← cfgWord_eq_ofNat]
    rfl
  · exact decodeRequest_readAt (reg := .status) rfl wdata
  · rw [← statusWord_eq_ofNat]
    rfl

/-- Settles O15: each file's addresses decode to its reads, and a read of a legal entry answers its word. -/
theorem weightReads : Obligations.WeightReads := by
  intro s i wdata
  refine ⟨⟨?_, readEntry_indexOf s.arch.b i s⟩, ?_, readEntry_indexOf s.arch.a i s⟩
  · exact decodeRequest_readAt (decodeReg_entryAddr_b i) wdata
  · exact decodeRequest_readAt (decodeReg_entryAddr_a i) wdata

theorem wdataNumIn_eq_ofNat (wdata : Word) : wdataNumIn wdata = BitVec.ofNat 8 (wdata.toNat % 0x100) := by
  apply BitVec.eq_of_toNat_eq
  rw [wdataNumIn, BitVec.extractLsb'_toNat, BitVec.toNat_ofNat, Nat.shiftRight_zero, Nat.mod_mod]

theorem wdataNumOut_eq_ofNat (wdata : Word) :
    wdataNumOut wdata = BitVec.ofNat 8 (wdata.toNat / 0x100 % 0x100) := by
  apply BitVec.eq_of_toNat_eq
  rw [wdataNumOut, BitVec.extractLsb'_toNat, BitVec.toNat_ofNat, Nat.shiftRight_eq_div_pow, Nat.mod_mod]

/-- Settles O18: CFG's address decodes to its write, and the lock decides between the new counts and LOCKED. -/
theorem countsWrite : Obligations.CountsWrite := by
  intro s wdata
  refine ⟨decodeRequest_writeAt (reg := .cfg) rfl wdata, fun hopen => ?_, fun hlocked => ?_⟩
  · rw [← wdataNumIn_eq_ofNat, ← wdataNumOut_eq_ofNat]
    exact respondUnlocked_of_open hopen
  · exact respondUnlocked_of_locked hlocked

end Sys2Proof.Machine
end

section
/-! PROOF. The commands CONFIGURE, RELEASE and CLEAR_ERR, and the lock. -/

namespace Sys2Proof.Machine

/-! CONFIGURE by its outcomes: the lock, the failing check, the construction. -/

section
variable {s : State}

theorem execConfigure_of_locked (hc : s.arch.configured = true) : execConfigure s = raiseErr .locked s := by
  rw [execConfigure, if_pos hc]

theorem execConfigure_of_illegal {e : ErrCode} (hc : ¬ s.arch.configured = true)
    (hk : cfgCheck s.arch.numIn s.arch.numOut s.arch.a[0] = some e) : execConfigure s = raiseErr e s := by
  rw [execConfigure, if_neg hc, hk]

theorem execConfigure_of_legal (hc : ¬ s.arch.configured = true)
    (hk : cfgCheck s.arch.numIn s.arch.numOut s.arch.a[0] = none) :
    execConfigure s = respondDone ((s.arch.withHistories zeroFile zeroFile).withConfigured true) s := by
  rw [execConfigure, if_neg hc, hk]

end

/-- The checks of R102 find nothing where the counts and A[0] are legal. -/
theorem cfgCheck_of_legal {m k : Byte} {a0 : Word} (hpos : 1 ≤ m.toNat) (hm : m.toNat ≤ 20) (hk : k.toNat ≤ 20)
    (ha : feq0 a0 = false) : cfgCheck m k a0 = none := by
  rw [cfgCheck, if_neg (Nat.not_lt.mpr hm), if_neg (Nat.ne_zero_of_lt hpos), if_neg (Nat.not_lt.mpr hk),
    if_neg (by rw [ha]; exact Bool.false_ne_true)]

/-- Settles O21: each link of the chain is the lock's or the check's own branch, and A[0] is a zero by O35. -/
theorem configureChecksThenConstructs : Obligations.ConfigureChecksThenConstructs := by
  intro s wdata
  refine ⟨decodeRequest_writeAt (reg := .cmdConfigure) rfl wdata, ?_⟩
  have hzero := feqZeroIsExactlyTheZeros s.arch.a[0]
  split_ifs with hc hm hpos hk ha
  · exact execConfigure_of_locked hc
  · exact execConfigure_of_illegal hc (by rw [cfgCheck, if_pos hm])
  · exact execConfigure_of_illegal hc (by rw [cfgCheck, if_neg hm, if_pos hpos])
  · exact execConfigure_of_illegal hc (by rw [cfgCheck, if_neg hm, if_neg hpos, if_pos hk])
  · exact execConfigure_of_illegal hc (by rw [cfgCheck, if_neg hm, if_neg hpos, if_neg hk, if_pos (hzero.mpr ha)])
  · have hlegal := cfgCheck_of_legal (Nat.one_le_iff_ne_zero.mpr hpos) (Nat.not_lt.mp hm) (Nat.not_lt.mp hk)
      (Bool.eq_false_iff.mpr (mt hzero.mp ha))
    exact ⟨zeroFile, zeroFile, execConfigure_of_legal hc hlegal, fun i => ⟨getElem_zeroFile i, getElem_zeroFile i⟩⟩

/-- CONFIGURE alone enters the configured state, after its checks. -/
theorem Effect.enters_configured {i : Instr} {c d : Arch} {q : Response} (h : Effect i c d q)
    (hc : c.configured = false) (hd : d.configured = true) : i = .configure ∧ c.LegalCfg := by
  cases h with
  | configured hi _ hk => exact ⟨hi, legal_of_cfgCheck hk⟩
  | released => cases hd
  | _ => exact absurd (hc.symm.trans hd) Bool.false_ne_true

/-- Settles O43: a reset ends unconfigured, and the transactions that do not are CONFIGURE's. -/
theorem onlyConfigureEntersTheConfiguredState : Obligations.OnlyConfigureEntersTheConfiguredState := by
  intro s t hstep hs ht
  rcases step_arch_cases hstep with hidle | hreset | ⟨r, rest, hpending, hperform⟩
  · exact absurd (hs.symm.trans (hidle ▸ ht)) Bool.false_ne_true
  · rw [hreset] at ht
    cases ht
  · rw [hperform] at ht
    rcases perform_effect r s.arch with ⟨e, -, hrejected⟩ | ⟨i, hd, he⟩
    · rw [hrejected] at ht
      exact absurd (hs.symm.trans ht) Bool.false_ne_true
    · obtain ⟨rfl, hlegal⟩ := he.enters_configured hs ht
      exact ⟨hlegal, r, rest, hpending, hd⟩

/-! The lock, and the writes that it guards. -/

theorem lt_of_legalIndex {i : TapIndex} (h : legalIndex i = true) : i.toNat < 20 :=
  Nat.lt_succ_of_le (of_decide_eq_true h)

theorem execWrB_of_lt {i : TapIndex} (hi : i.toNat < 20) (w : Word) (s : State) :
    execWrB i w s = respondUnlocked (s.arch.withB (s.arch.b.set i.toNat w)) s := by
  rw [execWrB, tapEntry_of_lt hi]

theorem execWrA_of_lt {i : TapIndex} (hi : i.toNat < 20) (w : Word) (s : State) :
    execWrA i w s = respondUnlocked (s.arch.withA (s.arch.a.set i.toNat w)) s := by
  rw [execWrA, tapEntry_of_lt hi]

/-- An operation that the lock guards is rejected by it (R106). -/
theorem exec_of_lockedOp {i : Instr} {s : State} (hc : s.arch.configured = true) (hwf : i.wf = true)
    (hi : lockedOp i = true) : exec i s = raiseErr .locked s := by
  cases i with
  | wrCfg w => exact respondUnlocked_of_locked hc
  | configure => exact execConfigure_of_locked hc
  | wrB n w => exact (execWrB_of_lt (lt_of_legalIndex hwf) w s).trans (respondUnlocked_of_locked hc)
  | wrA n w => exact (execWrA_of_lt (lt_of_legalIndex hwf) w s).trans (respondUnlocked_of_locked hc)
  | _ => cases hi

/-- While configured, an operation that the lock does not guard is accepted. -/
theorem exec_of_not_lockedOp {i : Instr} {s : State} (hc : s.arch.configured = true) (hwf : i.wf = true)
    (hi : lockedOp i = false) : ∃ c v, exec i s = .next (s.complete c ⟨false, v⟩) := by
  cases i with
  | wrCfg | configure | wrB | wrA => cases hi
  | filter x => exact ⟨filterEval x s.arch, 0#64, by rw [exec, execFilter, if_pos hc]; rfl⟩
  | rdB n | rdA n | rdXh n | rdYh n => exact ⟨_, _, readEntry_of_lt (lt_of_legalIndex hwf)⟩
  | rdCaps | rdCfg | rdStatus | rdYOut | release | clearErr => exact ⟨_, _, rfl⟩

/-- Settles O20: the four guarded operations meet the lock first, and no other rejection meets a well-formed operation. -/
theorem lockGuardsTheConfiguration : Obligations.LockGuardsTheConfiguration := by
  intro s i hc hwf
  refine ⟨exec_of_lockedOp hc hwf, fun hi => ?_⟩
  obtain ⟨c, v, h⟩ := exec_of_not_lockedOp hc hwf hi
  exact ⟨_, v, h, rfl⟩

/-! RELEASE and CLEAR_ERR. -/

/-- Settles O22: R104's assignments name every element of CORE's state. -/
theorem releaseRestoresTheResetState : Obligations.ReleaseRestoresTheResetState := by
  intro s wdata
  obtain ⟨hfiles, -⟩ := resetValues
  exact ⟨decodeRequest_writeAt (reg := .cmdRelease) rfl wdata, s.complete (released s.arch) ⟨false, 0#64⟩, rfl, rfl,
    released_eq_reset s.arch, hfiles, rfl, rfl, rfl, rfl⟩

/-- Settles O23: CLEAR_ERR is one assignment to LAST_ERR. -/
theorem clearErrClearsOnlyTheCode : Obligations.ClearErrClearsOnlyTheCode :=
  fun _ wdata => ⟨decodeRequest_writeAt (reg := .cmdClearErr) rfl wdata, rfl⟩

/-- Settles O47: RELEASE leaves the reset state, from which the rest of the stream goes on. -/
theorem releaseGivesAFreshInstance : Obligations.ReleaseGivesAFreshInstance := by
  intro c rs
  rw [performAll, perform_of_release (decodeRequest_encodeRequest rfl)]

end Sys2Proof.Machine
end

section
/-! PROOF. The general construction: the weights written one by one, the counts, then CONFIGURE. -/

namespace Sys2Proof.Machine

/-! A file under the writes of a list. -/

/-- The file `f` with the words of a list in its entries from `start` on, as far as both go. -/
@[irreducible] def loaded (f : TapFile) (start : Nat) (ws : List Word) : TapFile :=
  Vector.ofFn fun i => if start ≤ i.val then ws[i.val - start]?.getD f[i] else f[i]

theorem getElem_loaded (f : TapFile) (start : Nat) (ws : List Word) {i : Nat} (hi : i < 20) :
    (loaded f start ws)[i] = if start ≤ i then ws[i - start]?.getD f[i] else f[i] := by
  simp [loaded]

theorem loaded_nil (f : TapFile) (start : Nat) : loaded f start [] = f := by
  ext i hi
  simp [getElem_loaded]

/-- Nothing is written past entry 19. -/
theorem loaded_past (f : TapFile) {start : Nat} (h : 20 ≤ start) (ws : List Word) : loaded f start ws = f := by
  ext i hi
  rw [getElem_loaded, if_neg (by omega)]

/-- The first word goes into entry `start`, the others from the next entry on. -/
theorem loaded_cons (f : TapFile) {start : Nat} (h : start < 20) (w : Word) (ws : List Word) :
    loaded f start (w :: ws) = loaded (f.set start w) (start + 1) ws := by
  ext i hi
  rw [getElem_loaded, getElem_loaded]
  obtain hlt | rfl | hgt := Nat.lt_trichotomy i start
  · rw [if_neg (by omega), if_neg (by omega), Vector.getElem_set_ne _ _ (by omega)]
  · simp
  · obtain ⟨n, hn⟩ := Nat.exists_eq_add_of_lt hgt
    rw [if_pos (by omega), if_pos (by omega), Vector.getElem_set_ne _ _ (by omega), show i - start = n + 1 by omega,
      show i - (start + 1) = n by omega, List.getElem?_cons_succ]

/-- Loading the first `n` words from entry 0 on. -/
theorem getElem_loaded_take (f : TapFile) (n : Nat) (ws : List Word) {i : Nat} (hi : i < 20) :
    (loaded f 0 (ws.take n))[i] = if i < n then ws[i]?.getD f[i] else f[i] := by
  rw [getElem_loaded, if_pos i.zero_le, Nat.sub_zero, List.getElem?_take]
  split <;> rfl

/-! Streams of accepted writes. -/

/-- The response of a write that is accepted. -/
abbrev okay : Response := { err := false, rdata := 0#64 }

/-- CORE accepts every write of the stream and goes from state `c` to `d`. -/
def Accepts (rs : List Request) (c d : Arch) : Prop :=
  (performAll rs c).1 = d ∧ ∀ q ∈ (performAll rs c).2, q = okay

theorem Accepts.nil (c : Arch) : Accepts [] c c := ⟨rfl, fun _ hq => absurd hq List.not_mem_nil⟩

theorem Accepts.cons {r : Request} {rs : List Request} {c d e : Arch} (hr : perform r c = (d, okay))
    (h : Accepts rs d e) : Accepts (r :: rs) c e := by
  obtain ⟨hstate, hanswers⟩ := h
  rw [Accepts, performAll, hr]
  exact ⟨hstate, List.forall_mem_cons.mpr ⟨rfl, hanswers⟩⟩

theorem Accepts.append {rs qs : List Request} {c d e : Arch} (h : Accepts rs c d) (h' : Accepts qs d e) :
    Accepts (rs ++ qs) c e := by
  obtain ⟨rfl, hanswers⟩ := h
  obtain ⟨hstate, hanswers'⟩ := h'
  rw [Accepts, performAll_append]
  exact ⟨hstate, List.forall_mem_append.mpr ⟨hanswers, hanswers'⟩⟩

/-- A loop of accepted writes loads its file. `writes` is `writesB` or `writesA`, and `core f` is CORE with the file `f`. -/
theorem accepts_writes {writes : Nat → List Word → List Request} {op : TapIndex → Word → Instr} {core : TapFile → Arch}
    (hnil : ∀ start, writes start [] = [])
    (hcons : ∀ start w ws, writes start (w :: ws) =
      if start < 20 then encodeRequest (op (BitVec.ofNat 5 start) w) :: writes (start + 1) ws else [])
    (hop : ∀ (i : Fin 20) w f, perform (encodeRequest (op (indexOf i) w)) (core f) = (core (f.set i w), okay))
    (ws : List Word) (start : Nat) (f : TapFile) : Accepts (writes start ws) (core f) (core (loaded f start ws)) := by
  induction ws generalizing start f with
  | nil =>
    rw [hnil, loaded_nil]
    exact .nil (core f)
  | cons w ws ih =>
    rw [hcons]
    split_ifs with hstart
    · rw [loaded_cons f hstart]
      exact .cons (hop ⟨start, hstart⟩ w f) (ih (start + 1) (f.set start w))
    · rw [loaded_past f (Nat.not_lt.mp hstart)]
      exact .nil (core f)

/-! The four kinds of transactions of a construction, on an unconfigured CORE. -/

theorem legalIndex_indexOf (i : Fin 20) : legalIndex (indexOf i) = true :=
  decide_eq_true (Nat.not_lt.mp (indexOf_legal i))

section
variable {c : Arch} (hc : c.configured = false)
include hc

theorem perform_wrB (i : Fin 20) (w : Word) :
    perform (encodeRequest (.wrB (indexOf i) w)) c = (c.withB (c.b.set i w), okay) :=
  perform_of_exec (decodeRequest_encodeRequest (legalIndex_indexOf i))
    ((execWrB_indexOf i w _).trans (respondUnlocked_of_open hc))

theorem perform_wrA (i : Fin 20) (w : Word) :
    perform (encodeRequest (.wrA (indexOf i) w)) c = (c.withA (c.a.set i w), okay) :=
  perform_of_exec (decodeRequest_encodeRequest (legalIndex_indexOf i))
    ((execWrA_indexOf i w _).trans (respondUnlocked_of_open hc))

theorem accepts_writesB (ws : List Word) : Accepts (writesB 0 ws) c (c.withB (loaded c.b 0 ws)) :=
  accepts_writes (core := c.withB) (fun _ => rfl) (fun _ _ _ => rfl)
    (fun i w f => perform_wrB (c := c.withB f) hc i w) ws 0 c.b

theorem accepts_writesA (ws : List Word) : Accepts (writesA 0 ws) c (c.withA (loaded c.a 0 ws)) :=
  accepts_writes (core := c.withA) (fun _ => rfl) (fun _ _ _ => rfl)
    (fun i w f => perform_wrA (c := c.withA f) hc i w) ws 0 c.a

/-- WR_CFG takes both counts out of `cfg(m, k)` (R69). -/
theorem perform_wrCfg (m k : Byte) :
    perform (encodeRequest (.wrCfg (AsmData.cfg m k).word)) c = (c.withCfg m k, okay) := by
  have hword : (AsmData.cfg m k).word.toNat = 0x100 * k.toNat + m.toNat := toNat_cfgWord (c.withCfg m k)
  have hm : wdataNumIn (AsmData.cfg m k).word = m := by
    rw [wdataNumIn_eq_ofNat, hword]
    exact BitVec.eq_of_toNat_eq (by rw [BitVec.toNat_ofNat]; omega)
  have hk : wdataNumOut (AsmData.cfg m k).word = k := by
    rw [wdataNumOut_eq_ofNat, hword]
    exact BitVec.eq_of_toNat_eq (by rw [BitVec.toNat_ofNat]; omega)
  refine perform_of_exec (decodeRequest_encodeRequest rfl) ?_
  rw [exec, execWrCfg, respondUnlocked_of_open hc, hm, hk]
  rfl

theorem perform_configure (h : c.LegalCfg) : perform (encodeRequest .configure) c =
    ((c.withHistories zeroFile zeroFile).withConfigured true, okay) := by
  obtain ⟨hpos, hm, hk, ha⟩ := h
  exact perform_of_exec (decodeRequest_encodeRequest rfl)
    (execConfigure_of_legal (s := idleAt c) (Bool.eq_false_iff.mp hc) (cfgCheck_of_legal hpos hm hk ha))

end

/-! The construction. -/

/-- CORE with the weights of a construction written, each list up to its count (R113). -/
def weighted (m k : Byte) (bs as : List Word) (c : Arch) : Arch :=
  (c.withB (loaded c.b 0 (bs.take m.toNat))).withA (loaded c.a 0 (as.take k.toNat))

/-- CORE as CONFIGURE leaves it where it succeeds after the write of the counts. -/
def configuredWith (m k : Byte) (c : Arch) : Arch :=
  ((c.withCfg m k).withHistories zeroFile zeroFile).withConfigured true

section
variable {m k : Byte} {c : Arch} (hc : c.configured = false)
include hc

theorem accepts_weights (bs as : List Word) :
    Accepts (writesB 0 (bs.take m.toNat) ++ writesA 0 (as.take k.toNat)) c (weighted m k bs as c) :=
  (accepts_writesB hc _).append (accepts_writesA (c := c.withB (loaded c.b 0 (bs.take m.toNat))) hc _)

theorem accepts_counts_configure (hlegal : (c.withCfg m k).LegalCfg) :
    Accepts [encodeRequest (.wrCfg (AsmData.cfg m k).word), encodeRequest .configure] c (configuredWith m k c) :=
  .cons (perform_wrCfg hc m k) (.cons (perform_configure (c := c.withCfg m k) hc hlegal) (.nil _))

/-- A construction with legal counts and a nonzero A[0] is accepted. -/
theorem accepts_construction {bs as : List Word} (hpos : 1 ≤ m.toNat) (hm : m.toNat ≤ 20) (hk : k.toNat ≤ 20)
    (ha : feq0 (if 0 < k.toNat then as[0]?.getD c.a[0] else c.a[0]) = false) :
    Accepts (construction m k bs as) c (configuredWith m k (weighted m k bs as c)) := by
  rw [← getElem_loaded_take c.a k.toNat as (by decide)] at ha
  exact (accepts_weights hc bs as).append
    (accepts_counts_configure (c := weighted m k bs as c) hc ⟨hpos, hm, hk, ha⟩)

end

/-- Settles O32: the weights, the counts and CONFIGURE are accepted in turn, and the files are loaded from the lists. -/
theorem constructionConfigures : Obligations.ConstructionConfigures := by
  intro c m k bs as hc hpos hm hk ha
  obtain ⟨hstate, hanswers⟩ := accepts_construction hc hpos hm hk ha
  rw [hstate]
  exact ⟨hanswers, rfl, rfl, rfl, fun i =>
    ⟨getElem_loaded_take c.b m.toNat bs i.isLt, getElem_loaded_take c.a k.toNat as i.isLt⟩⟩

end Sys2Proof.Machine
end

section
/-! PROOF. What a filter step reads, and feedback through zero weights. -/

namespace Sys2Proof.Machine

/-- Files that agree in entry `t` have one tap there. -/
theorem tap_congr {f g : TapFile} {t : Nat} (ht : t < 20) (h : f[t] = g[t]) : tap f t = tap g t := by
  rw [tap_of_lt ht, tap_of_lt ht, h]

/-- The new sample stands first, and the sum reads the old history one entry less deep. -/
theorem tap_shiftIn_congr {f g : TapFile} (x : Word) {t n : Nat} (ht : t < n) (hn : n ≤ 20)
    (h : ∀ i : Fin 20, i.val + 1 < n → f[i] = g[i]) : tap (shiftIn x f) t = tap (shiftIn x g) t := by
  cases t with
  | zero => rw [tap_shiftIn_zero, tap_shiftIn_zero]
  | succ t =>
    rw [tap_shiftIn_succ x f (by omega), tap_shiftIn_succ x g (by omega)]
    exact tap_congr (by omega) (h ⟨t, by omega⟩ ht)

/-- One sample gives one output. -/
theorem feed_singleton {c : Arch} (x : Word) (hc : c.configured = true) : (feed [x] c).2 = [filterOutput x c] := by
  rw [feed_cons x [] hc]
  rfl

/-- Settles O27: each sum reads its files at the entries of its terms only. -/
theorem filterReadsOnlyTheActiveEntries : Obligations.FilterReadsOnlyTheActiveEntries := by
  intro c d x hc hd hm hk hm20 hk20 hb ha hx hy
  have hforward : feedForward c (shiftIn x c.xh) = feedForward d (shiftIn x d.xh) := by
    rw [feedForward, feedForward, ← hm]
    refine dot_congr (fun t _ ht => ?_) fun t ht => tap_shiftIn_congr x ht hm20 hx
    rw [Nat.zero_add] at ht
    exact tap_congr (by omega) (hb ⟨t, by omega⟩ ht)
  have hback : feedBack c = feedBack d := by
    rw [feedBack, feedBack, ← hk]
    refine dot_congr (fun t _ ht => ?_) fun t ht => ?_
    · exact tap_congr (by omega) (ha ⟨t, by omega⟩ (.inl (show t < c.numOut.toNat by omega)))
    · exact tap_congr (by omega) (hy ⟨t, by omega⟩ (show t + 1 < c.numOut.toNat by omega))
  have hnorm : c.a[0] = d.a[0] := ha 0 (.inr rfl)
  rw [feed_singleton x hc, feed_singleton x hd, filterOutput, filterOutput, hforward, hback, hnorm]

/-! Feedback through weights that are zeros past A[0]. -/

/-- A zero times a finite word is a zero. -/
theorem feq0_fmul {p q : Word} (hp : feq0 p = true) (hq : isFinite q = true) : feq0 (fmul p q) = true := by
  obtain ⟨-, -, -, -, -, hzero, -⟩ := operationsRoundTheExactResultOnce p q (isFinite_of_feq0 hp) hq
  rw [hzero (by rw [(feq0_iff_quanta p).mp hp, zero_mul])]
  exact feq0_packWord_zero _

/-- Every entry of the file is finite. -/
def FiniteFile (f : TapFile) : Prop := ∀ t, isFinite (tap f t) = true

theorem FiniteFile.shiftIn {f : TapFile} {y : Word} (hf : FiniteFile f) (hy : isFinite y = true) :
    FiniteFile (shiftIn y f) := by
  intro t
  by_cases ht : t < 20
  · cases t with
    | zero => rwa [tap_shiftIn_zero]
    | succ t =>
      rw [tap_shiftIn_succ y f ht]
      exact hf t
  · rw [tap_of_ge (Nat.not_lt.mp ht)]
    decide

theorem finiteFile_zeroFile : FiniteFile zeroFile := fun t => by
  rw [tap_zeroFile]
  decide

/-- The weights past A[0] are zeros, of either sign. -/
def ZeroFeedback (c : Arch) : Prop := ∀ j, 1 ≤ j → feq0 (tap c.a j) = true

/-- Zero weights on finite outputs feed back +0.0, whatever NUM_OUT is (R130). -/
theorem feedBack_eq_posZero {c : Arch} (ha : ZeroFeedback c) (hy : FiniteFile c.yh) : feedBack c = posZero :=
  sumOfZerosIsPositiveZero c.a c.yh 1 _ fun t _ => feq0_fmul (ha (1 + t) (Nat.le_add_right 1 t)) (hy t)

/-- While the outputs are finite, NUM_OUT plays no part where the weights that it adds are zeros. -/
theorem feed_withCfg_of_zeroFeedback (k : Byte) (xs : List Word) {c : Arch} (hc : c.configured = true)
    (ha : ZeroFeedback c) (hy : FiniteFile c.yh) (hout : ∀ y ∈ (feed xs c).2, isFinite y = true) :
    (feed xs (c.withCfg c.numIn k)).2 = (feed xs c).2 := by
  induction xs generalizing c with
  | nil => rfl
  | cons x xs ih =>
    have hback : feedBack (c.withCfg c.numIn k) = feedBack c :=
      (feedBack_eq_posZero (c := c.withCfg c.numIn k) ha hy).trans (feedBack_eq_posZero ha hy).symm
    have houtput : filterOutput x (c.withCfg c.numIn k) = filterOutput x c := by
      rw [filterOutput, filterOutput, hback]
      rfl
    have hstate : filterEval x (c.withCfg c.numIn k) = (filterEval x c).withCfg (filterEval x c).numIn k := by
      rw [filterEval, houtput]
      rfl
    rw [feed_cons x xs hc] at hout ⊢
    rw [feed_cons x xs (c := c.withCfg c.numIn k) hc, houtput, hstate]
    obtain ⟨hy0, hrest⟩ := List.forall_mem_cons.mp hout
    have hyh : FiniteFile (filterEval x c).yh := by
      rw [filterEval_yh]
      exact hy.shiftIn hy0
    exact congrArg (filterOutput x c :: ·) (ih (c := filterEval x c) hc ha hyh hrest)

/-! The presets. -/

/-- CORE as a preset leaves it: R111's weights, and NUM_OUT as the preset gives it. -/
def presetArch (k : Byte) : Arch :=
  configuredWith 3#8 k (weighted 3#8 1#8 [third, third, third] [one] Arch.reset)

theorem accepts_movingAverage : Accepts movingAverage.requests Arch.reset (presetArch 1#8) :=
  accepts_construction rfl (by decide) (by decide) (by decide) (by decide)

theorem accepts_butterworth : Accepts butterworth.requests Arch.reset (presetArch 3#8) :=
  accepts_construction rfl (by decide) (by decide) (by decide) (by decide)

/-- The presets write A[0] alone, and the other entries are +0.0 from reset (R112). -/
theorem zeroFeedback_presetArch (k : Byte) : ZeroFeedback (presetArch k) := by
  intro j hj
  by_cases hj20 : j < 20
  · have hzero : tap (presetArch k).a j = posZero := by
      rw [tap_of_lt hj20]
      refine (getElem_loaded_take zeroFile _ _ hj20).trans ?_
      rw [if_neg (show ¬ j < (1#8).toNat from Nat.not_lt.mpr hj)]
      exact getElem_zeroFile ⟨j, hj20⟩
    rw [hzero]
    decide
  · rw [tap_of_ge (Nat.not_lt.mp hj20)]
    decide

/-- Settles O31: the presets differ in NUM_OUT alone, and it adds zero weights only. -/
theorem presetsAgreeWhileFinite : Obligations.PresetsAgreeWhileFinite := by
  intro xs hout
  obtain ⟨hma, -⟩ := accepts_movingAverage
  obtain ⟨hbw, -⟩ := accepts_butterworth
  rw [hma] at hout ⊢
  rw [hbw]
  exact feed_withCfg_of_zeroFeedback 3#8 xs (c := presetArch 1#8) rfl (zeroFeedback_presetArch 1#8)
    finiteFile_zeroFile hout

end Sys2Proof.Machine
end

section
/-! PROOF. The sums of the filter step as reductions of lists of products: by lanes, and over the files as lists. -/

namespace Sys2Proof.Machine

/-- `dot` reduces the products of its terms in ascending order from +0.0. -/
theorem dot_eq_reduceLanes (w h : TapFile) (lo n : Nat) :
    dot w h lo n = reduceLanes ((List.range' lo n).map fun t => fmul (tap w t) (tap h (t - lo))) :=
  List.foldl_map.symm

/-! The lanes. -/

/-- The active lanes `lo` to `lo + n - 1` among the first `m`, in ascending order. -/
theorem filter_range_eq_range' {active : Nat → Bool} {lo n m : Nat} (hm : lo + n ≤ m)
    (hactive : ∀ t, active t = true ↔ lo ≤ t ∧ t < lo + n) : (List.range m).filter active = List.range' lo n := by
  have hsorted : ((List.range m).filter active).SortedLT := (List.pairwise_lt_range.filter active).sortedLT
  refine hsorted.eq_of_mem_iff (List.sortedLT_range' lo n one_ne_zero) fun t => ?_
  rw [List.mem_filter, List.mem_range, List.mem_range'_1, hactive]
  omega

/-- The datapath whose active lanes are the terms of a `dot` gives its bits. -/
theorem reduceLanes_laneProducts (w h : TapFile) {active : Nat → Bool} {lo n : Nat} (hn : lo + n ≤ 20)
    (hactive : ∀ t, active t = true ↔ lo ≤ t ∧ t < lo + n) :
    reduceLanes (laneProducts w (fun t => tap h (t - lo)) active) = dot w h lo n := by
  rw [dot_eq_reduceLanes, laneProducts, filter_range_eq_range' hn hactive]

/-- Settles O28: in either sum the active lanes are the terms of its `dot`. -/
theorem laneDatapathGivesTheFoldBits : Obligations.LaneDatapathGivesTheFoldBits := by
  rintro c xh ⟨-, hm, hk, -⟩
  constructor
  · exact reduceLanes_laneProducts c.b xh (lo := 0) (n := c.numIn.toNat) (by omega) fun t => by
      rw [decide_eq_true_eq]
      omega
  · exact reduceLanes_laneProducts c.a c.yh (lo := 1) (n := c.numOut.toNat - 1) (by omega) fun t => by
      rw [decide_eq_true_eq]
      omega

/-! The recurrence. -/

/-- An entry of a file's list is its tap. -/
theorem getElem?_toList {f : TapFile} {t : Nat} (ht : t < 20) : f.toList[t]? = some (tap f t) := by
  rw [tap_of_lt ht]
  simp [ht]

/-- `dot` takes the weights from entry `lo` on, and the history `hs` in its own order. -/
theorem dot_eq_foldl_zipWith {w h : TapFile} {lo n : Nat} {hs : List Word} (hn : lo + n ≤ 20)
    (hhs : ∀ t < n, hs[t]? = some (tap h t)) :
    dot w h lo n = (List.zipWith fmul ((w.toList.drop lo).take n) hs).foldl fadd posZero := by
  rw [dot_eq_reduceLanes, reduceLanes]
  congr 1
  refine List.ext_getElem? fun t => ?_
  rw [List.getElem?_map, List.getElem?_zipWith, List.getElem?_take]
  by_cases ht : t < n
  · rw [List.getElem?_range' ht, if_pos ht, List.getElem?_drop, getElem?_toList (by omega), hhs t ht]
    simp
  · rw [List.getElem?_eq_none (by simpa using ht), if_neg ht]
    rfl

/-- The sample stands before the old input history (R122, R123). -/
theorem feedForward_eq_foldl_zipWith (x : Word) {c : Arch} (hm : c.numIn.toNat ≤ 20) :
    feedForward c (shiftIn x c.xh) =
      (List.zipWith fmul (c.b.toList.take c.numIn.toNat) (x :: c.xh.toList)).foldl fadd posZero := by
  refine dot_eq_foldl_zipWith (by omega) fun t ht => ?_
  cases t with
  | zero => rw [tap_shiftIn_zero, List.getElem?_cons_zero]
  | succ t => rw [tap_shiftIn_succ x c.xh (by omega), List.getElem?_cons_succ, getElem?_toList (by omega)]

theorem feedBack_eq_foldl_zipWith {c : Arch} (hk : c.numOut.toNat ≤ 20) :
    feedBack c =
      (List.zipWith fmul ((c.a.toList.drop 1).take (c.numOut.toNat - 1)) c.yh.toList).foldl fadd posZero :=
  dot_eq_foldl_zipWith (by omega) fun _ ht => getElem?_toList (by omega)

/-- Settles O25: while configured FILTER is `filterEval`, whose two sums are these folds. -/
theorem filterEvaluatesTheRecurrence : Obligations.FilterEvaluatesTheRecurrence := by
  intro s x
  refine ⟨decodeRequest_writeAt (reg := .xIn) rfl x, fun hc hm hk => ?_, fun hc => ?_⟩
  · refine ⟨shiftIn x s.arch.xh, shiftIn (filterOutput x s.arch) s.arch.yh, ?_, shiftIn_zero x _, fun i => ?_, ?_,
      fun i => ?_⟩
    · rw [exec, execFilter, if_pos hc]
      rfl
    · exact shiftIn_succ x _ (by omega)
    · rw [shiftIn_zero, filterOutput, feedForward_eq_foldl_zipWith x hm, feedBack_eq_foldl_zipWith hk]
    · exact shiftIn_succ _ _ (by omega)
  · rw [exec, execFilter, if_neg (Bool.eq_false_iff.mp hc)]
    rfl

end Sys2Proof.Machine
end

section
/-! PROOF. NaNs in the sums and along the outputs. -/

namespace Sys2Proof.Machine

/-- One product that is a NaN makes the sum a NaN: where it is added, and from there on. -/
theorem isNan_dot {w h : TapFile} {lo n t : Nat} (ht : t < n)
    (hnan : isNan (fmul (tap w (lo + t)) (tap h t)) = true) : isNan (dot w h lo n) = true := by
  induction n with
  | zero => exact absurd ht t.not_lt_zero
  | succ n ih =>
    rw [dot_succ, fadd]
    obtain hlt | rfl := Nat.lt_succ_iff_lt_or_eq.mp ht
    · exact isNan_addAs (.inl (ih hlt))
    · exact isNan_addAs (.inr (.inl hnan))

/-- With NUM_OUT at least 2 the newest output enters the feedback sum, and through it the next output (R129). -/
theorem isNan_filterOutput (x : Word) {c : Arch} (hk : 2 ≤ c.numOut.toNat) (hnan : isNan c.yh[0] = true) :
    isNan (filterOutput x c) = true := by
  have hback : isNan (feedBack c) = true := by
    refine isNan_dot (t := 0) (by omega) (isNan_fmul (.inr (.inl ?_)))
    rwa [tap_of_lt (by decide)]
  have hdiff : isNan (fsub (feedForward c (shiftIn x c.xh)) (feedBack c)) = true :=
    isNan_addAs (.inr (.inl ((isNan_negate _).trans hback)))
  exact isNan_fdiv (.inl hdiff)

/-- Settles O30, by induction on the samples: each output is a NaN and is the newest one for the next step. -/
theorem nanOutputPersists : Obligations.NanOutputPersists := by
  intro c xs hc hk hk20 hnan
  induction xs generalizing c with
  | nil => exact fun _ hy => absurd hy List.not_mem_nil
  | cons x xs ih =>
    have hout := isNan_filterOutput x hk hnan
    rw [feed_cons x xs hc]
    refine List.forall_mem_cons.mpr ⟨hout, ih (filterEval x c) hc hk hk20 ?_⟩
    rwa [filterEval_yh, shiftIn_zero]

end Sys2Proof.Machine
end

section
/-! PROOF. What a step answers: the requests served, the rejections of the decoder and of ill-formed operations, and a step
with nothing offered. -/

namespace Sys2Proof.Machine

/-- Every step goes on: it is idle, a transaction, or a reset. -/
theorem goesOn (s : State) : GoesOn s := by
  cases hp : s.pending with
  | nil => exact ⟨s, step_idle hp⟩
  | cons ev rest =>
    cases ev with
    | request r => exact ⟨_, (step_request hp).trans (transact_eq_perform r _)⟩
    | reset => exact ⟨_, step_reset hp⟩
    | resetDuring r => exact ⟨_, step_resetDuring hp⟩

/-- Settles O10: a transaction completes with its response, and only its own event is taken. -/
theorem everyRequestIsAnswered : Obligations.EveryRequestIsAnswered :=
  ⟨goesOn, fun _ r _ hpending => ⟨_, _, (step_request hpending).trans (transact_eq_perform r _), rfl, rfl⟩⟩

/-- What the decoder rejects is an error entry with the decoder's code, the event taken (R64, R142). -/
theorem step_of_decodeRequest_error {s : State} {r : Request} {rest : List HostInput} {e : ErrCode}
    (hpending : s.pending = .request r :: rest) (hdecode : decodeRequest r = .error e) :
    step s = .next ((s.withPending rest).rejected (errByte e)) := by
  rw [step_request hpending, transact, hdecode]
  rfl

/-- Settles O8: the step's error entry, at the two codes that the decoder gives. -/
theorem stepRejectsWhatTheDecoderRejects : Obligations.StepRejectsWhatTheDecoderRejects :=
  fun _ _ _ hpending => ⟨step_of_decodeRequest_error hpending, step_of_decodeRequest_error hpending⟩

/-- A machine whose step leaves it as it is stays so over any run. -/
theorem run_of_step_self {M : Host.Core} {s : M.State} (h : M.step s = .next s) (n : Nat) : M.run n s = .next s := by
  induction n with
  | zero => rfl
  | succ n ih => simpa only [Host.Core.run, h] using ih

/-- Settles O12: a step with nothing offered leaves the machine as it is. -/
theorem idleHoldsTheState : Obligations.IdleHoldsTheState :=
  fun _ n hpending => run_of_step_self (M := core) (step_idle hpending) n

theorem le_of_not_legalIndex {i : TapIndex} (h : legalIndex i = false) : 20 ≤ i.toNat :=
  Nat.not_le.mp (of_decide_eq_false h)

theorem execWrB_of_ge {i : TapIndex} (hi : 20 ≤ i.toNat) (w : Word) (s : State) :
    execWrB i w s = raiseErr .badAddress s := by
  rw [execWrB, tapEntry_of_ge hi]

theorem execWrA_of_ge {i : TapIndex} (hi : 20 ≤ i.toNat) (w : Word) (s : State) :
    execWrA i w s = raiseErr .badAddress s := by
  rw [execWrA, tapEntry_of_ge hi]

/-- An ill-formed operation has a reserved tap index, and its access is rejected. -/
theorem exec_of_not_wf {op : Instr} (h : op.wf = false) (s : State) : exec op s = raiseErr .badAddress s := by
  cases op with
  | rdB | rdA | rdXh | rdYh => exact readEntry_of_ge (le_of_not_legalIndex h)
  | wrB n w => exact execWrB_of_ge (le_of_not_legalIndex h) w s
  | wrA n w => exact execWrA_of_ge (le_of_not_legalIndex h) w s
  | _ => cases h

/-- Settles O17: with a reserved index each of the six operations is ill-formed. -/
theorem reservedTapIndexIsRejected : Obligations.ReservedTapIndexIsRejected := by
  intro s i w hi op hop
  have hindex : legalIndex i = false := decide_eq_false (Nat.not_le.mpr hi)
  have hwf : op.wf = false := by
    simp only [List.mem_cons, List.not_mem_nil, or_false] at hop
    rcases hop with rfl | rfl | rfl | rfl | rfl | rfl <;> exact hindex
  exact exec_of_not_wf hwf s

end Sys2Proof.Machine
end

section
/-! PROOF. The instances of a system: a step of one of them writes its own state alone. -/

namespace Sys2Proof.Machine

/-- Stepping number `k` of the instances replaces its state by the next one. -/
theorem System.stepAt_of_next {sys : System} {k : Nat} {s t : State} (hk : sys.instances[k]? = some s)
    (ht : step s = .next t) : sys.stepAt k = { instances := sys.instances.set k t } := by
  simp only [System.stepAt, hk, ht]

theorem System.stepAt_of_none {sys : System} {k : Nat} (hk : sys.instances[k]? = none) : sys.stepAt k = sys := by
  rw [System.stepAt, hk]

theorem System.stepAt_other (sys : System) {j k : Nat} (h : j ≠ k) :
    (sys.stepAt k).instances[j]? = sys.instances[j]? := by
  cases hk : sys.instances[k]? with
  | none => rw [stepAt_of_none hk]
  | some s =>
    obtain ⟨t, ht⟩ := goesOn s
    rw [stepAt_of_next hk ht]
    exact List.getElem?_set_ne h.symm

/-- Number `k` goes to the next state of its own state, whatever the others are in. -/
theorem System.stepAt_self {sys : System} {k : Nat} {s t : State} (hk : sys.instances[k]? = some s)
    (ht : step s = .next t) : (sys.stepAt k).instances[k]? = some t := by
  obtain ⟨hlt, -⟩ := List.getElem?_eq_some_iff.mp hk
  rw [stepAt_of_next hk ht]
  exact List.getElem?_set_self hlt

/-- Settles O50: a step writes one entry, with a state that depends on that entry alone. -/
theorem instancesAreIndependent : Obligations.InstancesAreIndependent := by
  refine fun sys j k => ⟨sys.stepAt_other, fun heq => ?_⟩
  cases hk : sys.instances[k]? with
  | none => rw [System.stepAt_of_none hk, System.stepAt_of_none (heq.trans hk), heq]
  | some s =>
    obtain ⟨t, ht⟩ := goesOn s
    rw [System.stepAt_self hk ht, System.stepAt_self (heq.trans hk) ht]

end Sys2Proof.Machine
end

section
/-! PROOF. The step's two reset events (R160, R162). -/

namespace Sys2Proof.Machine

/-- Settles O11: either reset event takes its own event, reinitialises CORE and clears the response, whatever the request
that the second one cuts. -/
theorem resetAbandonsTheTransaction : Obligations.ResetAbandonsTheTransaction :=
  fun _ _ _ => ⟨step_reset, step_resetDuring⟩

end Sys2Proof.Machine
end
